-- ==== Sys2Proof/Word.lean ====
section
/-! DEFINITION. The word types of the CDC (00_scope.md R11): bytes, the 2-bit register index and offset, the
3-bit interrupt code, the 32-bit data word. -/

namespace Sys2Proof

/-- A `Byte` is an unsigned 8-bit value (R11). -/
abbrev Byte := BitVec 8

/-- A register offset 0..3 or the value of the sub-register selector (R20, R91). -/
abbrev Index := BitVec 2

/-- An interrupt code: "The four codes are 3-bit numbers" (R100). -/
abbrev IrqCode := BitVec 3

/-- What a 32-bit read of the data port returns (R267). -/
abbrev Word := BitVec 32

end Sys2Proof
end

