-- ==== Sys2Proof/Config.lean ====
section
/-! DEFINITION. What is fixed for the life of the CDC: the constants the source states (00_scope.md R7, status
"source"), the parameters the spec asks a model to carry as named configuration fields (R7, status "decision" or
"OPEN"; R8), the shape of the provider's answers (20_memory.md R75), and the free values. -/

namespace Sys2Proof

/-! ### Constants the source states (R7) -/

/-- `FIFO_CAP`, the capacity of each of the three queues (R220). -/
def fifoCap : Nat := 16
/-- `SECTOR_BYTES`, the size of a raw sector (R105). -/
def sectorBytes : Nat := 2352
/-- `SYNC_BYTES`, the length of the sync pattern (R105). -/
def syncBytes : Nat := 12
/-- `PAYLOAD_DATA_ONLY` (R34). -/
def payloadDataOnly : Nat := 2048
/-- `SKIP_DATA_ONLY` (R34). -/
def skipDataOnly : Nat := 24
/-- `SKIP_WHOLE` (R34). -/
def skipWhole : Nat := 12
/-- `LEAD_IN` (R282). -/
def leadIn : Nat := 150
/-- `FRAMES_PER_SECOND` (R282). -/
def framesPerSecond : Nat := 75
/-- `SECONDS_PER_MINUTE` (R282). -/
def secondsPerMinute : Nat := 60

/-! ### Types of the provider's answers (R75) -/

/-- The bytes of one raw sector: exactly 2352 of them, which is the provider's contract (R75). -/
abbrev SectorData := Vector Byte 2352

/-- The provider's classification of a sector (R75). -/
inductive SectorType where
  | data
  | audio
  | invalid
deriving DecidableEq, Repr, Inhabited

/-- What `read_sector_at` returns (R75). -/
structure Sector where
  bytes : SectorData
  type  : SectorType
deriving DecidableEq, Repr, Inhabited

/-- A position in minutes, seconds and frames, in binary (R75, R282). -/
structure Msf where
  m : Nat
  s : Nat
  f : Nat
deriving DecidableEq, Repr, Inhabited

/-! ### Encodings as parameters (R8: "The reader must treat these as configuration") -/

/-- "the 18 opcode numbers" (R7, R96). -/
structure Opcodes where
  getstat : Byte
  setloc : Byte
  play : Byte
  readN : Byte
  motorOn : Byte
  stop : Byte
  pause : Byte
  init : Byte
  mute : Byte
  demute : Byte
  setmode : Byte
  getparam : Byte
  getTN : Byte
  getTD : Byte
  seekL : Byte
  test : Byte
  getID : Byte
  readS : Byte
deriving DecidableEq, Repr

/-- What a write of registers 1 to 3 can be: the write rows of R92 but `WR_INDEX`. A pair of the map that has no
target is one of the seven no-op rows (R68, R150). -/
inductive WriteRow where
  | command
  | parameter
  | irqEnable
  | irqAck
  | request
  | nop11
  | nop12
  | nop13
  | nop22
  | nop23
  | nop32
  | nop33
deriving DecidableEq, Repr

/-- What a read of registers 1 to 3 can be: the read rows of R92 but `RD_STAT`. A row stands at several pairs, "the
same port" (R69); the argument numbers them, and is the row's free bits under the map of R67. -/
inductive ReadRow where
  | response (i : Index)
  | data (i : Index)
  | irqEnable (i : BitVec 1)
  | irqFlag (i : BitVec 1)
deriving DecidableEq, Repr

/-- The map of registers 1 to 3, by the value of `index` (R67); register 0 is not in it: "Register 0 is always the
index selector". -/
structure RegisterMap (α : Type) where
  register1 : Vector α 4
  register2 : Vector α 4
  register3 : Vector α 4
deriving DecidableEq, Repr

/-- What decisions D2, D3 and D7 fix. A read pair with no row is one the map leaves out (R68). -/
structure Encodings where
  opcodes : Opcodes
  writeMap : RegisterMap WriteRow
  readMap : RegisterMap (Option ReadRow)
deriving DecidableEq, Repr

/-- "status register bit positions" (R7, R27); `index` is the lower bit of its two-bit field. -/
structure StatBits where
  index : Fin 7
  adpcm : Fin 8
  prmEmpty : Fin 8
  prmWritable : Fin 8
  rspNonempty : Fin 8
  dataNonempty : Fin 8
  busy : Fin 8
deriving DecidableEq, Repr

/-- "drive status byte bit positions" (R7, R31); Stopped has none. -/
structure DriveBits where
  error : Fin 8
  motorOn : Fin 8
  seekError : Fin 8
  idError : Fin 8
  shellOpen : Fin 8
  reading : Fin 8
  seeking : Fin 8
  playing : Fin 8
deriving DecidableEq, Repr

/-- "reset values" (R7, R341). The queues, the sector buffers and `fatal` have none here: the queues empty, `active`
none and `fatal` none "are required of every initial state in any case" (R341), and so is `raw_sector` none (U20). -/
structure ResetValues where
  index : Index
  irqEnable : Byte
  busy : Bool
  adpcmEmpty : Bool
  drive : Byte
  mode : Byte
  mute : Bool
  seekTarget : Int
  readPos : Int
  countdown : Nat
  cursor : Nat
deriving DecidableEq, Repr

/-! ### The parameters -/

/-- The parameters of R7 that are OPEN or a decided value. A claim about every `Config` is a claim for all of them. -/
structure Config where
  /-- `CDROM_BASE`, OPEN (R61). -/
  cdromBase : Nat
  /-- `SECTOR_PERIOD`, OPEN, a positive number of ticks (R244). -/
  sectorPeriod : Nat
  /-- `TICK_QUANTUM`, OPEN; "no rule depends on it" (R240). -/
  tickQuantum : Nat
  /-- `IRQ_LINE_ID`, OPEN (R306). -/
  irqLineId : Nat
  /-- The code of the data-ready envelope (R100). -/
  intDataReady : IrqCode
  /-- The code of the delayed-done envelope (R100). -/
  intDone : IrqCode
  /-- The code of the immediate-ack envelope (R100). -/
  intAck : IrqCode
  /-- The code of the error envelope (R100). -/
  intError : IrqCode
  /-- The opcode numbers and the register map (R67, R96). -/
  encodings : Encodings
  /-- The bit positions of the status register (R27). -/
  statBits : StatBits
  /-- The bit positions of the drive status byte (R31). -/
  driveBits : DriveBits
  /-- `PAYLOAD_WHOLE` (R34), at most what a sector holds after `SKIP_WHOLE` (R264: "always in range"). -/
  payloadWhole : Fin (sectorBytes - skipWhole + 1)
  /-- The reset values (R341). -/
  resetValues : ResetValues
  /-- `MODE_WHOLE_SECTOR` (R34). -/
  modeWholeSector : Byte
  /-- `MODE_UNSUPPORTED_MASK` (R35). -/
  modeUnsupportedMask : Byte
  /-- `ACK_POP_MASK` (R143). -/
  ackPopMask : Byte
  /-- `ACK_PARAM_RESET` (R143). -/
  ackParamReset : Byte
  /-- `TEST_ID_BYTES` (R194). -/
  testIdBytes : Vector Byte 4
  /-- `GETID_OK_PAYLOAD` (R195). -/
  getidOkPayload : Vector Byte 8
  /-- `GETPARAM_RESERVED` (R190). -/
  getparamReserved : Vector Byte 2
  /-- `FIRST_TRACK` (R191). -/
  firstTrack : Nat
  /-- `EMPTY_READ_VALUE` (R131, R265). -/
  emptyReadValue : Byte
  /-- The sync pattern expected of a Data sector; the source holds no value (R248). -/
  syncData : Vector Byte 12
  /-- The sync pattern expected of an Audio sector; the source holds no value (R248). -/
  syncAudio : Vector Byte 12
deriving DecidableEq, Repr

/-! ### Free values: nothing constrains them (log 8) -/

/-- `SECTOR_PERIOD` less one in the reset state: OPEN, a positive integer (R244). -/
opaque Config.freePeriodPred : Nat
/-- `TICK_QUANTUM` in the reset state: OPEN (R240). -/
opaque Config.freeQuantum : Nat
/-- The expected sync constants in the reset state (R248). -/
opaque Config.freeSyncData : Vector Byte 12
opaque Config.freeSyncAudio : Vector Byte 12
/-- Whether a disc is present in the reset state: the provider is any (R342). -/
opaque Config.freeIsEmpty : Bool
/-- The provider's `track_count()` in the reset state. -/
opaque Config.freeTrackCount : Nat
/-- The provider's `disc_size()` in the reset state. -/
opaque Config.freeDiscSize : Msf
/-- What the provider answers for a track its table does not list: "the provider's affair" (R75). -/
opaque Config.freeTrackStart : Nat → Msf
/-- What the provider answers for a position its table does not list (R75, R283). -/
opaque Config.freeSector : Int → Sector

end Sys2Proof
end

