-- ==== Sys2Proof/Syntax.lean ====
section
/-! DEFINITION. The operations of the CDC as syntax: one constructor per row of spec/opcode_table.json. -/

namespace Sys2Proof

/-- An operation. The bytes a command consumes are in `param_fifo`, "not bits of the opcode" (R94), so the
commands carry no operand. A register operation carries the free bits of its descriptor (R91) and, for a write,
the data byte `v`. -/
inductive Instr where
  -- format CMD (R96)
  | getstat
  | setloc
  | play
  | readN
  | motorOn
  | stop
  | pause
  | init
  | mute
  | demute
  | setmode
  | getparam
  | getTN
  | getTD
  | seekL
  | test
  | getID
  | readS
  /-- The default row: `op` is none of the 18 opcodes of R96. -/
  | unknown (op : Byte)
  -- format REG (R92); `ii` (or its free bit `i`) is the index in force, part of the descriptor (R91)
  | rdStat (ii : Index)
  | wrIndex (ii : Index) (v : Byte)
  | wrCmd (v : Byte)
  | rdResp (ii : Index)
  | wrParam (v : Byte)
  | rdData (ii : Index)
  | wrIrqen (v : Byte)
  | rdIrqen (i : BitVec 1)
  | wrIrqack (v : Byte)
  | rdIrqflag (i : BitVec 1)
  | wrReq (v : Byte)
  | wrNop11 (v : Byte)
  | wrNop12 (v : Byte)
  | wrNop13 (v : Byte)
  | wrNop22 (v : Byte)
  | wrNop23 (v : Byte)
  | wrNop32 (v : Byte)
  | wrNop33 (v : Byte)
  -- format EVT (R93)
  | tick
  | rdDataWord
  | reset
deriving DecidableEq, Repr

end Sys2Proof
end

