-- ==== Sys2Proof/Decode.lean ====
section
/-! DEFINITION. From the bits of the three formats of 30_encoding.md (`CMD`, `REG`, `EVT`) to an operation, total
and rejecting by name, and back; and the reading of a bare word of spec/opcode_table.json. -/

namespace Sys2Proof

/-- An encoded operation, by format (R90). The 5-bit descriptor `w aa ii` of `REG` (R91) has its bit `w` as the
choice between `read` and `write`; a write "also carries a data byte `v`". -/
inductive Encoded where
  | cmd (op : Byte)
  | read (aa ii : Index)
  | write (aa ii : Index) (v : Byte)
  | evt (code : BitVec 2)
deriving DecidableEq, Repr

/-- Why an encoding names no operation of the table. -/
inductive DecodeError where
  /-- `EVT` code 11 "is unused" (R93). -/
  | unusedEventCode
  /-- A read pair that the register map leaves out (R68); under the map of R67 there is none. -/
  | unmappedRead (aa ii : Index)
deriving DecidableEq, Repr

/-! ### Commands -/

/-- The 18 recognised commands, by name (R96). -/
inductive CommandName where
  | getstat | setloc | play | readN | motorOn | stop | pause | init | mute | demute | setmode | getparam
  | getTN | getTD | seekL | test | getID | readS
deriving DecidableEq, Repr

def commandNames : List CommandName :=
  [.getstat, .setloc, .play, .readN, .motorOn, .stop, .pause, .init, .mute] ++
  [.demute, .setmode, .getparam, .getTN, .getTD, .seekL, .test, .getID, .readS]

/-- The opcode of a command. -/
def Opcodes.of (o : Opcodes) : CommandName → Byte
  | .getstat => o.getstat
  | .setloc => o.setloc
  | .play => o.play
  | .readN => o.readN
  | .motorOn => o.motorOn
  | .stop => o.stop
  | .pause => o.pause
  | .init => o.init
  | .mute => o.mute
  | .demute => o.demute
  | .setmode => o.setmode
  | .getparam => o.getparam
  | .getTN => o.getTN
  | .getTD => o.getTD
  | .seekL => o.seekL
  | .test => o.test
  | .getID => o.getID
  | .readS => o.readS

/-- "The lookup uses all 8 bits of `op`" (R174). -/
def lookupCommand (o : Opcodes) (op : Byte) : Option CommandName := commandNames.find? fun c => o.of c == op

/-- The row of the opcode table a command name stands for. -/
def commandInstr : CommandName → Instr
  | .getstat => .getstat
  | .setloc => .setloc
  | .play => .play
  | .readN => .readN
  | .motorOn => .motorOn
  | .stop => .stop
  | .pause => .pause
  | .init => .init
  | .mute => .mute
  | .demute => .demute
  | .setmode => .setmode
  | .getparam => .getparam
  | .getTN => .getTN
  | .getTD => .getTD
  | .seekL => .seekL
  | .test => .test
  | .getID => .getID
  | .readS => .readS

/-- "A decoder of `op` is total: every byte value 0x00..0xFF decodes" (R95). -/
def decodeCommand (o : Opcodes) (op : Byte) : Instr :=
  match lookupCommand o op with
  | some c => commandInstr c
  | none => .unknown op

/-! ### Register descriptors -/

/-- The entry of the map for a pair of offset and index; none at offset 0. -/
def RegisterMap.entry {α : Type} (m : RegisterMap α) (aa ii : Index) : Option α :=
  match aa.toNat with
  | 0 => none
  | 1 => some (m.register1.get ii.toFin)
  | 2 => some (m.register2.get ii.toFin)
  | _ => some (m.register3.get ii.toFin)

def Encodings.writeRow (e : Encodings) (aa ii : Index) : Option WriteRow := e.writeMap.entry aa ii

def Encodings.readRow (e : Encodings) (aa ii : Index) : Option ReadRow := (e.readMap.entry aa ii).join

/-- The operation of a write row. -/
def writeInstr (v : Byte) : WriteRow → Instr
  | .command => .wrCmd v
  | .parameter => .wrParam v
  | .irqEnable => .wrIrqen v
  | .irqAck => .wrIrqack v
  | .request => .wrReq v
  | .nop11 => .wrNop11 v
  | .nop12 => .wrNop12 v
  | .nop13 => .wrNop13 v
  | .nop22 => .wrNop22 v
  | .nop23 => .wrNop23 v
  | .nop32 => .wrNop32 v
  | .nop33 => .wrNop33 v

/-- The operation of a read row. -/
def readInstr : ReadRow → Instr
  | .response i => .rdResp i
  | .data i => .rdData i
  | .irqEnable i => .rdIrqen i
  | .irqFlag i => .rdIrqflag i

/-- A read, descriptor `0 aa ii`: register 0 is the status register, the others go by the map (R67, R92). -/
def decodeRead (e : Encodings) (aa ii : Index) : Except DecodeError Instr :=
  if aa = 0#2 then .ok (.rdStat ii)
  else
    match e.readRow aa ii with
    | some row => .ok (readInstr row)
    | none => .error (.unmappedRead aa ii)

/-- A write, descriptor `1 aa ii` with the data byte: register 0 is the index selector, the others go by the map. -/
def decodeWrite (e : Encodings) (aa ii : Index) (v : Byte) : Instr :=
  match e.writeRow aa ii with
  | some row => writeInstr v row
  | none => .wrIndex ii v

/-- The rows of R93. -/
def decodeEvent (code : BitVec 2) : Except DecodeError Instr :=
  match code.toNat with
  | 0 => .ok .tick
  | 1 => .ok .rdDataWord
  | 2 => .ok .reset
  | _ => .error .unusedEventCode

/-- The decoder: total on every encoding of the three formats. -/
def decode (e : Encodings) : Encoded → Except DecodeError Instr
  | .cmd op => .ok (decodeCommand e.opcodes op)
  | .read aa ii => decodeRead e aa ii
  | .write aa ii v => .ok (decodeWrite e aa ii v)
  | .evt code => decodeEvent code

/-! ### The encoder -/

/-- The pairs of registers 1 to 3. -/
def mappedPairs : List (Index × Index) :=
  [1#2, 2#2, 3#2].flatMap fun aa => [0#2, 1#2, 2#2, 3#2].map fun ii => (aa, ii)

/-- A pair where the map has a write row, if there is one. -/
def Encodings.writePair (e : Encodings) (row : WriteRow) : Option (Index × Index) :=
  mappedPairs.find? fun p => e.writeRow p.1 p.2 == some row

/-- A pair where the map has a read row, if there is one. -/
def Encodings.readPair (e : Encodings) (row : ReadRow) : Option (Index × Index) :=
  mappedPairs.find? fun p => e.readRow p.1 p.2 == some row

def encodeWrite (e : Encodings) (row : WriteRow) (v : Byte) : Option Encoded :=
  (e.writePair row).map fun p => .write p.1 p.2 v

def encodeRead (e : Encodings) (row : ReadRow) : Option Encoded := (e.readPair row).map fun p => .read p.1 p.2

/-- The encoding of an operation; none where the map has no place for it. -/
def encode (e : Encodings) : Instr → Option Encoded
  | .getstat => some (.cmd e.opcodes.getstat)
  | .setloc => some (.cmd e.opcodes.setloc)
  | .play => some (.cmd e.opcodes.play)
  | .readN => some (.cmd e.opcodes.readN)
  | .motorOn => some (.cmd e.opcodes.motorOn)
  | .stop => some (.cmd e.opcodes.stop)
  | .pause => some (.cmd e.opcodes.pause)
  | .init => some (.cmd e.opcodes.init)
  | .mute => some (.cmd e.opcodes.mute)
  | .demute => some (.cmd e.opcodes.demute)
  | .setmode => some (.cmd e.opcodes.setmode)
  | .getparam => some (.cmd e.opcodes.getparam)
  | .getTN => some (.cmd e.opcodes.getTN)
  | .getTD => some (.cmd e.opcodes.getTD)
  | .seekL => some (.cmd e.opcodes.seekL)
  | .test => some (.cmd e.opcodes.test)
  | .getID => some (.cmd e.opcodes.getID)
  | .readS => some (.cmd e.opcodes.readS)
  | .unknown op => some (.cmd op)
  | .rdStat ii => some (.read 0#2 ii)
  | .wrIndex ii v => some (.write 0#2 ii v)
  | .wrCmd v => encodeWrite e .command v
  | .rdResp ii => encodeRead e (.response ii)
  | .wrParam v => encodeWrite e .parameter v
  | .rdData ii => encodeRead e (.data ii)
  | .wrIrqen v => encodeWrite e .irqEnable v
  | .rdIrqen i => encodeRead e (.irqEnable i)
  | .wrIrqack v => encodeWrite e .irqAck v
  | .rdIrqflag i => encodeRead e (.irqFlag i)
  | .wrReq v => encodeWrite e .request v
  | .wrNop11 v => encodeWrite e .nop11 v
  | .wrNop12 v => encodeWrite e .nop12 v
  | .wrNop13 v => encodeWrite e .nop13 v
  | .wrNop22 v => encodeWrite e .nop22 v
  | .wrNop23 v => encodeWrite e .nop23 v
  | .wrNop32 v => encodeWrite e .nop32 v
  | .wrNop33 v => encodeWrite e .nop33 v
  | .tick => some (.evt 0#2)
  | .rdDataWord => some (.evt 1#2)
  | .reset => some (.evt 2#2)

/-! ### The spec's values -/

/-- The opcode numbers of R96 (decision D7). -/
def specOpcodes : Opcodes where
  getstat := 0x01#8
  setloc := 0x02#8
  play := 0x03#8
  readN := 0x06#8
  motorOn := 0x07#8
  stop := 0x08#8
  pause := 0x09#8
  init := 0x0A#8
  mute := 0x0B#8
  demute := 0x0C#8
  setmode := 0x0E#8
  getparam := 0x0F#8
  getTN := 0x13#8
  getTD := 0x14#8
  seekL := 0x15#8
  test := 0x19#8
  getID := 0x1A#8
  readS := 0x1B#8

/-- The opcode numbers and the register map the spec decides (R67, R92, R96; decisions D2, D3, D7). -/
def specEncodings : Encodings where
  opcodes := specOpcodes
  writeMap :=
    { register1 := #v[.command, .nop11, .nop12, .nop13]
      register2 := #v[.parameter, .irqEnable, .nop22, .nop23]
      register3 := #v[.request, .irqAck, .nop32, .nop33] }
  readMap :=
    { register1 := #v[some (.response 0#2), some (.response 1#2), some (.response 2#2), some (.response 3#2)]
      register2 := #v[some (.data 0#2), some (.data 1#2), some (.data 2#2), some (.data 3#2)]
      register3 := #v[some (.irqEnable 0#1), some (.irqFlag 0#1), some (.irqEnable 1#1), some (.irqFlag 1#1)] }

/-! ### A bare word of the opcode table -/

/-- A register descriptor `w aa ii` in bits 4:0 (R91), the data byte of a write in bits 15:8. -/
def descriptorEncoding (w : Nat) : Encoded :=
  let aa : Index := BitVec.ofNat 2 (w / 4)
  let ii : Index := BitVec.ofNat 2 w
  if w / 16 % 2 = 1 then .write aa ii (BitVec.ofNat 8 (w / 256)) else .read aa ii

/-- DESIGN CHOICE (log 4). The table's three formats overlap as bare numbers, so the width tells them apart: at
most 2 bits is `EVT`, at most 5 bits is `REG`. A wider word is looked up in the table's own order with its default
row last: the 18 exact `CMD` rows, then a `REG` descriptor, then `Unknown`. -/
def tableEncoding (e : Encodings) (nbits w : Nat) : Encoded :=
  let w := w % 2 ^ nbits
  let op : Byte := BitVec.ofNat 8 w
  if nbits ≤ 2 then .evt (BitVec.ofNat 2 w)
  else if nbits ≤ 5 then descriptorEncoding w
  else if (lookupCommand e.opcodes op).isSome then .cmd op
  else if op.toNat < 32 then descriptorEncoding w
  else .cmd op

/-- The operation a bare word is under some encodings. -/
def decodeWord (e : Encodings) (nbits w : Nat) : Option Instr :=
  match decode e (tableEncoding e nbits w) with
  | .ok i => some i
  | .error _ => none

/-- The operation the decoder reads from a word of spec/opcode_table.json, which is written in the spec's values. -/
def decodeTableWord (nbits w : Nat) : Option Instr := decodeWord specEncodings nbits w

end Sys2Proof
end

