-- ==== Sys2Proof/Machine/Defaults.lean ====
section
/-! DEFINITION. The default value the spec gives each parameter of 00_scope.md R7 (its "decision" rows and the
defaults of its OPEN rows), and a free value for the parameters that have none. -/

namespace Sys2Proof.Machine

/-- The bit positions of R27 (decision D4). -/
def specStatBits : StatBits where
  index := 0
  adpcm := 2
  prmEmpty := 3
  prmWritable := 4
  rspNonempty := 5
  dataNonempty := 6
  busy := 7

/-- The bit positions of R31 (decision D5). -/
def specDriveBits : DriveBits where
  error := 0
  motorOn := 1
  seekError := 2
  idError := 3
  shellOpen := 4
  reading := 5
  seeking := 6
  playing := 7

/-- The reset values of R341 (decision D28): "the all-zero, all-empty record, with the countdown at its reload
value"; what of it every initial state has is in `Cdc.reset`. -/
def specResetValues (sectorPeriod : Nat) : ResetValues where
  index := 0#2
  irqEnable := 0x00#8
  busy := false
  adpcmEmpty := false
  drive := 0x00#8
  mode := 0x00#8
  mute := false
  seekTarget := 0
  readPos := 0
  countdown := sectorPeriod
  cursor := 0

/-- The defaults of R7. `sectorPeriod`, `tickQuantum` and the two sync constants have none and are free (log 8). -/
def specDefaults : Config where
  cdromBase := 0x1F801800
  sectorPeriod := Config.freePeriodPred + 1
  tickQuantum := Config.freeQuantum
  irqLineId := 2
  intDataReady := 1#3
  intDone := 2#3
  intAck := 3#3
  intError := 5#3
  encodings := specEncodings
  statBits := specStatBits
  driveBits := specDriveBits
  payloadWhole := ⟨2340, by decide⟩
  resetValues := specResetValues (Config.freePeriodPred + 1)
  modeWholeSector := 0x20#8
  modeUnsupportedMask := 0x10#8
  ackPopMask := 0x07#8
  ackParamReset := 0x40#8
  testIdBytes := #v[0x94#8, 0x09#8, 0x19#8, 0xC0#8]
  getidOkPayload := #v[0x02#8, 0x00#8, 0x20#8, 0x00#8, 0x53#8, 0x43#8, 0x45#8, 0x41#8]
  getparamReserved := #v[0x00#8, 0x00#8]
  firstTrack := 1
  emptyReadValue := 0x00#8
  syncData := Config.freeSyncData
  syncAudio := Config.freeSyncAudio

/-- `ERR_UNKNOWN_PAYLOAD` (R7, source). -/
def errUnknownPayload : List Byte := [0x11#8, 0x40#8]

/-- `ERR_NODISC_PAYLOAD` (R7, source). -/
def errNoDiscPayload : List Byte := [0x08#8, 0x40#8, 0x00#8, 0x00#8, 0x00#8, 0x00#8, 0x00#8, 0x00#8]

/-- `TEST_SUBFN_ID` (R7, source). -/
def testSubfnId : Byte := 0x20#8

end Sys2Proof.Machine
end

