-- ==== Sys2Proof/Machine/State.lean ====
section
/-! DEFINITION. The state: the record `cdc` of 10_state.md R20, the arguments of its step relation (R44: the
parameters and the provider), the operations the agents have still to apply, and the outputs. Plain data. -/

namespace Sys2Proof.Machine

/-- The two fatal contract violations (60_exceptions.md R300, R301). -/
inductive FatalKind where
  | paramStarvation
  | unsupportedMode
deriving DecidableEq, Repr

/-- "The whole state of the CDC is the record `cdc` with exactly these fields" (R20). -/
structure Cdc where
  index : Index
  irqEnable : Byte
  busy : Bool
  adpcmEmpty : Bool
  paramFifo : List Byte
  respFifo : List Byte
  irqFifo : List IrqCode
  drive : Byte
  mode : Byte
  mute : Bool
  seekTarget : Int
  readPos : Int
  countdown : Nat
  rawSector : Option SectorData
  active : Option SectorData
  cursor : Nat
  fatal : Option FatalKind
deriving DecidableEq, Repr

/-- The record reset gives (70_reset_and_hazards.md R340): the reset values, and whatever they are the three queues
empty (42_fifo_manager.md R226), the sector buffers none and no fatal (R341). -/
def Cdc.reset (cfg : Config) : Cdc where
  index := cfg.resetValues.index
  irqEnable := cfg.resetValues.irqEnable
  busy := cfg.resetValues.busy
  adpcmEmpty := cfg.resetValues.adpcmEmpty
  paramFifo := []
  respFifo := []
  irqFifo := []
  drive := cfg.resetValues.drive
  mode := cfg.resetValues.mode
  mute := cfg.resetValues.mute
  seekTarget := cfg.resetValues.seekTarget
  readPos := cfg.resetValues.readPos
  countdown := cfg.resetValues.countdown
  rawSector := none
  active := none
  cursor := cfg.resetValues.cursor
  fatal := none

/-- The disc-image provider (R75), "a fixed read-only object for the life of the CDC" (R44). The tables list
what it answers for finitely many arguments, keys rising; every other answer is a free value (log 6). -/
structure Disc where
  isEmpty : Bool
  trackCount : Nat
  discSize : Msf
  tracks : List (Nat × Msf)
  sectors : List (Int × Sector)
deriving DecidableEq, Repr

/-- What the agents apply: a host memory access, its width in bytes (00_scope.md R13), or an event of the clock
or of creation by its `EVT` code (R93). -/
inductive Transaction where
  | memRead (addr width : Nat)
  | memWrite (addr : Nat) (bytes : List Byte)
  | event (code : BitVec 2)
deriving DecidableEq, Repr

/-- What a read returns to the host: a byte (R122) or the data word (R267). -/
inductive ReadValue where
  | byte (v : Byte)
  | word (v : Word)
deriving DecidableEq, Repr

/-- One `raise_interrupt(line)` call, "with the tick in which it happened" (R306). -/
structure IrqEvent where
  line : Nat
  tick : Nat
deriving DecidableEq, Repr

/-- The conditions that log (R315). "It is not state, not visible to the host, and no rule depends on it." -/
inductive LogEvent where
  /-- The no-op row that was written, by the digits of its name, and the byte. -/
  | ignoredWrite (aa ii : Index) (v : Byte)
  | ignoredRead (aa ii : Index)
  | unknownOpcode (op : Byte)
  | responseOverflow (b : Byte)
  | interruptOverflow (code : IrqCode)
  | parameterOverflow (b : Byte)
  | syncMismatch (pos : Int)
deriving DecidableEq, Repr

/-- The machine. `cfg` and `disc` are written by no operation; `inbox` holds the operations to come in the total
order of R72 (log 1); `readValue`, `ticks`, `irqHistory` and `log` are the model's record of what goes out
(log 10, 11, 12). -/
structure State where
  cdc : Cdc
  cfg : Config
  disc : Disc
  inbox : List Transaction
  readValue : Option ReadValue
  ticks : Nat
  irqHistory : List IrqEvent
  log : List LogEvent
deriving DecidableEq, Repr

/-- The provider attached to the reset state: any (R342; log 6, 8). -/
def Disc.free : Disc where
  isEmpty := Config.freeIsEmpty
  trackCount := Config.freeTrackCount
  discSize := Config.freeDiscSize
  tracks := []
  sectors := []

/-- The machine right after its creation (R340, R341), with no operation waiting and nothing gone out. -/
def State.reset : State where
  cdc := Cdc.reset specDefaults
  cfg := specDefaults
  disc := Disc.free
  inbox := []
  readValue := none
  ticks := 0
  irqHistory := []
  log := []

/-- How the machine stops with a fault. -/
inductive Fault where
  /-- Raised by every operation but `RESET` when the latch `fatal` is set: "From then on no operation of any
  agent has a step" (R302). Safe: the spec gives no step either. -/
  | noStep (kind : FatalKind)
deriving DecidableEq, Repr

/-- Why an operation has no meaning. -/
inductive Refusal where
  /-- Raised by an arm of `exec` whose instruction has no meaning yet. Safe. No arm does. -/
  | notModelled (mnemonic : String)
  /-- Raised when a transaction is fetched whose address is outside the window's four registers: it "never
  reaches the CDC" (R64). Safe. -/
  | accessOutsideWindow
  /-- Raised when an access inside the window is fetched that is neither one byte wide nor the 4-byte read of
  the data port: "not an operation of the CDC and a model gives it no step (refusal)" (R63). Safe. -/
  | accessWidth
  /-- Raised when the event code 11 is fetched, which "is unused" (R93). Safe. -/
  | unusedEventCode
deriving DecidableEq, Repr

/-- How an operation ends. -/
abbrev Result := Host.Outcome State Fault Refusal

end Sys2Proof.Machine
end

