-- ==== Sys2Proof/Machine/Flags.lean ====
section
/-! DEFINITION. What is computed from the state and not stored: the status register (10_state.md R27, R28), the
drive status byte's state tag (R31, R32), and the quantities derived from the mode (R34, R263). -/

namespace Sys2Proof.Machine

/-- `b` as a byte whose bit `n` it is. -/
def flagBit (b : Bool) (n : Fin 8) : Byte := (BitVec.ofBool b).setWidth 8 <<< n.val

/-! ### The mode register -/

/-- "The mode is whole-sector when `mode & MODE_WHOLE_SECTOR != 0`" (R34). -/
def wholeSector (cfg : Config) (c : Cdc) : Bool := c.mode &&& cfg.modeWholeSector != 0#8

/-- `payload_len()` (R34, R262). -/
def payloadLen (cfg : Config) (c : Cdc) : Nat := if wholeSector cfg c then cfg.payloadWhole else payloadDataOnly

/-- `skip()` (R34, R262). -/
def skip (cfg : Config) (c : Cdc) : Nat := if wholeSector cfg c then skipWhole else skipDataOnly

/-- "`active` is not none and `cursor < payload_len()`" (R263). -/
def dataAvailable (cfg : Config) (c : Cdc) : Bool := c.active.isSome && decide (c.cursor < payloadLen cfg c)

/-! ### The status register -/

/-- `STAT`, assembled when register 0 is read (R27, R120). -/
def stat (cfg : Config) (c : Cdc) : Byte :=
  flagBit c.busy cfg.statBits.busy ||| flagBit (dataAvailable cfg c) cfg.statBits.dataNonempty
    ||| flagBit (decide (c.respFifo.length > 0)) cfg.statBits.rspNonempty
    ||| flagBit (decide (c.paramFifo.length < fifoCap)) cfg.statBits.prmWritable
    ||| flagBit (decide (c.paramFifo.length = 0)) cfg.statBits.prmEmpty
    ||| flagBit c.adpcmEmpty cfg.statBits.adpcm ||| c.index.setWidth 8 <<< cfg.statBits.index.val

/-! ### The drive status byte -/

/-- The mutually exclusive state tags of R30. -/
inductive StateTag where
  | stopped
  | seeking
  | reading
  | playing
deriving DecidableEq, Repr

/-- The byte with one bit set. -/
def bitMask (p : Fin 8) : Byte := flagBit true p

/-- The three state bits. -/
def stateMask (b : DriveBits) : Byte := bitMask b.reading ||| bitMask b.seeking ||| bitMask b.playing

/-- The four flags that no rule sets (R33). -/
def errorMask (b : DriveBits) : Byte :=
  bitMask b.error ||| bitMask b.seekError ||| bitMask b.idError ||| bitMask b.shellOpen

/-- The bit of `drive` that codes a tag; Stopped is no state bit (R31). -/
def tagBit (b : DriveBits) : StateTag → Byte
  | .stopped => 0x00#8
  | .reading => bitMask b.reading
  | .seeking => bitMask b.seeking
  | .playing => bitMask b.playing

/-- `state()` (R31). With more than one state bit set, which no reachable state has, the first one counts (log 32). -/
def stateTag (b : DriveBits) (drive : Byte) : StateTag :=
  if drive.getLsbD b.reading then .reading
  else if drive.getLsbD b.seeking then .seeking
  else if drive.getLsbD b.playing then .playing
  else .stopped

/-- `set_state(tag)`: clear the state bits, "keep the five flags", set the tag's (R32). -/
def setTag (b : DriveBits) (tag : StateTag) (drive : Byte) : Byte := (drive &&& ~~~stateMask b) ||| tagBit b tag

/-! ### The interrupt condition -/

/-- "the front pending interrupt code's low 3 bits intersect the enabled-interrupt mask" (R242). -/
def frontEnabled (c : Cdc) : Bool :=
  match c.irqFifo with
  | [] => false
  | code :: _ => (code.setWidth 8 &&& 0x07#8) &&& c.irqEnable != 0#8

end Sys2Proof.Machine
end

