-- ==== Sys2Proof/Machine/Provider.lean ====
section
/-! DEFINITION. The provider's five calls as total functions of the fixed object `disc` (20_memory.md R75, R76). -/

namespace Sys2Proof.Machine

/-- `disc.track_start(n)`. -/
def trackStart (d : Disc) (n : Nat) : Msf := (d.tracks.lookup n).getD (Config.freeTrackStart n)

/-- `disc.read_sector_at(pos)`. -/
def readSectorAt (d : Disc) (pos : Int) : Sector := (d.sectors.lookup pos).getD (Config.freeSector pos)

/-- The canonical form of the two tables: keys strictly rising, so that a key has one entry. -/
abbrev Disc.wf (d : Disc) : Prop :=
  (d.tracks.map (·.1)).Pairwise (· < ·) ∧ (d.sectors.map (·.1)).Pairwise (· < ·)

end Sys2Proof.Machine
end

