-- ==== Sys2Proof/Machine/Ops.lean ====
section
/-! DEFINITION. The operations every meaning is written in: updates of the record, what goes out, the fatal
condition, the guard of R122 and R240, the queues (42_fifo_manager.md) and the data path (44_data_path.md). -/

namespace Sys2Proof.Machine

/-! ### Updates -/

/-- Change the record `cdc` and nothing else. -/
def State.onCdc (s : State) (f : Cdc → Cdc) : State := { s with cdc := f s.cdc }

/-- The value a host read returns (log 10). -/
def State.answer (s : State) (v : ReadValue) : State := { s with readValue := some v }

/-- `log(text)`: "has no effect on state" of the CDC (R14, R315). -/
def State.note (s : State) (e : LogEvent) : State := { s with log := s.log ++ [e] }

/-- `raise_interrupt(IRQ_LINE_ID)`, recorded "with the tick in which it happened"; "the CDC saves nothing,
changes no mode, masks nothing and vectors nowhere" (R306, R310). -/
def State.raiseInterrupt (s : State) : State :=
  { s with irqHistory := s.irqHistory ++ [{ line := s.cfg.irqLineId, tick := s.ticks }] }

/-! ### The fatal condition, and the way out of it -/

/-- `raise Fatal(kind)`: "sets `cdc.fatal <- kind` and ends the operation at that point" (R302). -/
def State.raiseFatal (s : State) (kind : FatalKind) : State := s.onCdc fun c => { c with fatal := some kind }

/-- `Reset()`: `cdc` becomes the record of R341; "the only way to leave the faulted condition" (R340). -/
def State.resetCdc (s : State) : State := s.onCdc fun _ => Cdc.reset s.cfg

/-- The test every operation but `Reset()` starts with: "if fatal != none: no step" (R122, R240, R267, R302). -/
def operate (f : State → State) (s : State) : Result :=
  match s.cdc.fatal with
  | some kind => .fault (.noStep kind)
  | none => .next (f s)

/-! ### The queues -/

/-- The first step of `push`: append the code, or drop it when the queue is full (R221, R223). -/
def pushCode (code : IrqCode) (s : State) : State :=
  if s.cdc.irqFifo.length < fifoCap then s.onCdc fun c => { c with irqFifo := c.irqFifo ++ [code] }
  else s.note (.interruptOverflow code)

/-- One byte of `push`: append it, or drop it when the queue is full (R221, R222). -/
def pushByte (s : State) (b : Byte) : State :=
  if s.cdc.respFifo.length < fifoCap then s.onCdc fun c => { c with respFifo := c.respFifo ++ [b] }
  else s.note (.responseOverflow b)

/-- `push(code, bytes)`: "The code goes in first, then the bytes in list order" (R221). -/
def push (code : IrqCode) (bytes : List Byte) (s : State) : State := bytes.foldl pushByte (pushCode code s)

/-- `ack()`; `drive` is sampled at the moment of the push (R173). -/
def pushAck (s : State) : State := push s.cfg.intAck [s.cdc.drive] s

/-- `done()` (R173). -/
def pushDone (s : State) : State := push s.cfg.intDone [s.cdc.drive] s

/-- `error_response()` (R173). -/
def errorResponse (s : State) : State := push s.cfg.intError errUnknownPayload s

/-- The host's side of the parameter queue: append, or drop the incoming byte when 16 are queued (R135, R136). -/
def pushParam (b : Byte) (s : State) : State :=
  if s.cdc.paramFifo.length < fifoCap then s.onCdc fun c => { c with paramFifo := c.paramFifo ++ [b] }
  else s.note (.parameterOverflow b)

/-! ### The data path -/

/-- `request(b)` (R261). -/
def request (b : Bool) (s : State) : State :=
  if b then
    if dataAvailable s.cfg s.cdc then s
    else s.onCdc fun c => { c with active := c.rawSector, cursor := 0 }
  else s.onCdc fun c => { c with active := none, cursor := 0 }

/-- Byte `i` of a sector. Every index the payload window gives is below 2352 (R264; log 43). -/
def sectorByte (d : SectorData) (i : Nat) : Byte := d.toList.getD i 0#8

/-- The byte `data_read_byte()` returns (R264, R265). -/
def dataByte (cfg : Config) (c : Cdc) : Byte :=
  match c.active with
  | some d => if dataAvailable cfg c then sectorByte d (skip cfg c + c.cursor) else cfg.emptyReadValue
  | none => cfg.emptyReadValue

/-- What `data_read_byte()` does to the state: "the read cursor advances" unless nothing is available (R264, R265). -/
def dataAdvance (cfg : Config) (c : Cdc) : Cdc :=
  if dataAvailable cfg c then { c with cursor := c.cursor + 1 } else c

end Sys2Proof.Machine
end

