-- ==== Sys2Proof/Machine/Events.lean ====
section
/-! DEFINITION. The three events: the tick with its interrupt queue pump and sector pump (43_tick_engine.md), the
word read of the data port (44_data_path.md R267), and reset (70_reset_and_hazards.md R340). -/

namespace Sys2Proof.Machine

/-! ### The tick -/

/-- Effect 1 of a tick: "State written: none; delivery removes nothing from the queue" (R242). -/
def deliverInterrupt (s : State) : State := if frontEnabled s.cdc then s.raiseInterrupt else s

/-- The sync constant expected of a classification (R248); an Invalid sector is not checked (R245). -/
def expectedSync (cfg : Config) : SectorType → Option (Vector Byte 12)
  | .data => some cfg.syncData
  | .audio => some cfg.syncAudio
  | .invalid => none

/-- `check_sync(bytes, type)`: "mismatch is logged only" (R248). -/
def checkSync (pos : Int) (sec : Sector) (s : State) : State :=
  match expectedSync s.cfg sec.type with
  | none => s
  | some sync => if sec.bytes.toList.take syncBytes = sync.toList then s else s.note (.syncMismatch pos)

/-- "If state is Reading and the sector is Data, additionally push a data-ready response envelope" (R246). -/
def announceData (sec : Sector) (s : State) : State :=
  if stateTag s.cfg.driveBits s.cdc.drive = .reading ∧ sec.type = .data then push s.cfg.intDataReady [s.cdc.drive] s else s

/-- `fetch_sector()`: read, advance, then the Invalid test, the sync check and the push (R245). -/
def fetchSector (s : State) : State :=
  let sec := readSectorAt s.disc s.cdc.readPos
  let t := s.onCdc fun c => { c with rawSector := some sec.bytes, readPos := c.readPos + 1 }
  if sec.type = .invalid then t else announceData sec (checkSync s.cdc.readPos sec t)

/-- Whether the pump counts: "only while drive state is Reading or Playing" (R244). -/
def pumping (b : DriveBits) (c : Cdc) : Bool := stateTag b c.drive = .reading || stateTag b c.drive = .playing

/-- Effect 2 of a tick (R244). -/
def sectorPump (s : State) : State :=
  if pumping s.cfg.driveBits s.cdc then
    if s.cdc.countdown - 1 = 0 then fetchSector (s.onCdc fun c => { c with countdown := s.cfg.sectorPeriod })
    else s.onCdc fun c => { c with countdown := c.countdown - 1 }
  else s

/-- The start of a tick: `busy <- 0` (R241), and the tick is counted for R306. -/
def beginTick (s : State) : State := { s.onCdc fun c => { c with busy := false } with ticks := s.ticks + 1 }

/-- R240: the busy clear, then delivery, then the pump. -/
def execTick (s : State) : Result := operate (fun s => sectorPump (deliverInterrupt (beginTick s))) s

/-! ### The word read -/

/-- "four sequential byte reads, least-significant byte first" (R267). -/
def dataWord (cfg : Config) (c : Cdc) : Word × Cdc :=
  let c1 := dataAdvance cfg c
  let c2 := dataAdvance cfg c1
  let c3 := dataAdvance cfg c2
  (dataByte cfg c3 ++ dataByte cfg c2 ++ dataByte cfg c1 ++ dataByte cfg c, dataAdvance cfg c3)

/-- R267. -/
def execRdDataWord (s : State) : Result :=
  operate (fun s => (s.onCdc fun c => (dataWord s.cfg c).2).answer (.word (dataWord s.cfg s.cdc).1)) s

/-! ### Reset -/

/-- R340: no test of the latch. -/
def execReset (s : State) : Result := .next s.resetCdc

end Sys2Proof.Machine
end

