-- ==== Sys2Proof/Machine/Position.lean ====
section
/-! DEFINITION. The pure conversions of 45_position_bcd.md. -/

namespace Sys2Proof.Machine

/-- `bcd_dec(b)`, "the formula to every byte" without validation (R280). -/
def bcdDec (b : Byte) : Nat := (b.toNat / 16) * 10 + b.toNat % 16

/-- `bcd_enc(n)` (R281). -/
def bcdEnc (n : Nat) : Byte := BitVec.ofNat 8 ((n / 10) % 16 * 16 + n % 10)

/-- `to_lba(m, s, f)`, on unbounded integers with a signed subtraction (R282, R283). -/
def toLba (p : Msf) : Int :=
  (((p.m * secondsPerMinute) + p.s) * framesPerSecond + p.f : Nat) - (leadIn : Int)

/-- `from_lba(L)`, "not defined" for `L < -150` (R284). -/
def fromLba (l : Int) : Option Msf :=
  if l < -(leadIn : Int) then none
  else
    let t := (l + leadIn).toNat
    some { m := t / (secondsPerMinute * framesPerSecond)
           s := t / framesPerSecond % secondsPerMinute
           f := t % framesPerSecond }

end Sys2Proof.Machine
end

