-- ==== Sys2Proof/Machine/Operands.lean ====
section
/-! DEFINITION. The operands of the commands: the bytes taken from `param_fifo`, oldest first, and how they are
assembled (30_encoding.md R97, R98). -/

namespace Sys2Proof.Machine

/-- `pop_param()`: hand the oldest byte to the rest of the body, or raise the fatal, which ends the body (R224). -/
def popParam (k : Byte → State → State) (s : State) : State :=
  match s.cdc.paramFifo with
  | [] => s.raiseFatal .paramStarvation
  | b :: rest => k b (s.onCdc fun c => { c with paramFifo := rest })

/-- Setloc's operand: minutes, seconds, frames, each BCD, as a linear position (R98). -/
def setlocOperand (mm ss ff : Byte) : Int := toLba { m := bcdDec mm, s := bcdDec ss, f := bcdDec ff }

/-- GetTD's answer: the start of the track, or the end of the disc for track 0 (R192). -/
def trackPosition (d : Disc) (t : Nat) : Msf := if t = 0 then d.discSize else trackStart d t

end Sys2Proof.Machine
end

