-- ==== Sys2Proof/Machine/Commands.lean ====
section
/-! DEFINITION. The command dispatcher and the 19 commands (41_commands.md). -/

namespace Sys2Proof.Machine

/-! ### The dispatch procedure -/

/-- Step (1): empty the interrupt-code and response queues (R171). -/
def clearResponses (s : State) : State := s.onCdc fun c => { c with irqFifo := [], respFifo := [] }

/-- Step (6): empty the parameter queue and set `busy` (R176). -/
def finishCommand (s : State) : State := s.onCdc fun c => { c with paramFifo := [], busy := true }

/-- `dispatch` around a command body: "If the body raises `Fatal`, the procedure stops there and step (6) does
not run" (R170). -/
def dispatch (body : State → State) (s : State) : State :=
  let t := body (clearResponses s)
  if t.cdc.fatal.isSome then t else finishCommand t

/-! ### The bodies -/

/-- R180. -/
def bodyGetstat (s : State) : State := pushAck s

/-- R181: "Parameters are popped before anything else the body does" (R175). -/
def bodySetloc : State → State :=
  popParam fun mm => popParam fun ss => popParam fun ff s =>
    pushAck (s.onCdc fun c => { c with seekTarget := setlocOperand mm ss ff })

/-- The head moves to the seek target and the state tag becomes `tag`. -/
def startAt (tag : StateTag) (s : State) : State :=
  s.onCdc fun c => { c with readPos := c.seekTarget, drive := setTag s.cfg.driveBits tag c.drive }

/-- R182. -/
def bodyPlay (s : State) : State := pushAck (startAt .playing s)

/-- R185. -/
def bodyReadN (s : State) : State := pushAck (startAt .reading s)

/-- R197. -/
def bodyReadS (s : State) : State := pushAck (startAt .reading s)

/-- R183. -/
def bodyMotorOn (s : State) : State :=
  pushDone (pushAck (s.onCdc fun c => { c with drive := c.drive ||| bitMask s.cfg.driveBits.motorOn }))

/-- R184. -/
def bodyStop (s : State) : State :=
  pushDone (pushAck (s.onCdc fun c =>
    { c with drive := setTag s.cfg.driveBits .stopped c.drive &&& ~~~bitMask s.cfg.driveBits.motorOn }))

/-- R189: the ack carries the status before the change, the done the status after. -/
def bodyPause (s : State) : State :=
  pushDone ((pushAck s).onCdc fun c => { c with drive := setTag s.cfg.driveBits .stopped c.drive })

/-- R196: "full status reset, motor on", whatever `drive` was. -/
def bodyInit (s : State) : State :=
  pushDone ((pushAck s).onCdc fun c => { c with drive := 0x00#8 ||| bitMask s.cfg.driveBits.motorOn })

/-- R187. -/
def bodyMute (s : State) : State := pushAck (s.onCdc fun c => { c with mute := true })

/-- R188. -/
def bodyDemute (s : State) : State := pushAck (s.onCdc fun c => { c with mute := false })

/-- R186: the fatal "is raised after the parameter is popped and before `mode` is written" (R301). -/
def bodySetmode : State → State :=
  popParam fun p s =>
    if p &&& s.cfg.modeUnsupportedMask != 0#8 then s.raiseFatal .unsupportedMode
    else pushAck (s.onCdc fun c => { c with mode := p })

/-- R190. -/
def bodyGetparam (s : State) : State := push s.cfg.intAck (s.cdc.drive :: s.cfg.getparamReserved.toList) s

/-- R191. -/
def bodyGetTN (s : State) : State :=
  push s.cfg.intAck [s.cdc.drive, bcdEnc s.cfg.firstTrack, bcdEnc s.disc.trackCount] s

/-- R192. -/
def bodyGetTD : State → State :=
  popParam fun t s =>
    push s.cfg.intAck
      [s.cdc.drive, bcdEnc (trackPosition s.disc (bcdDec t)).m, bcdEnc (trackPosition s.disc (bcdDec t)).s] s

/-- R193: the ack carries the status before the change. -/
def bodySeekL (s : State) : State := pushDone (startAt .seeking (pushAck s))

/-- R194. -/
def bodyTest : State → State :=
  popParam fun sub s => if sub = testSubfnId then push s.cfg.intAck s.cfg.testIdBytes.toList s else errorResponse s

/-- R195. -/
def bodyGetID (s : State) : State :=
  if s.cdc.drive.getLsbD s.cfg.driveBits.shellOpen then errorResponse s
  else if s.disc.isEmpty then push s.cfg.intError errNoDiscPayload (pushAck s)
  else push s.cfg.intDone s.cfg.getidOkPayload.toList (pushAck s)

/-- R199; an unknown opcode is one of the conditions that log (R315). -/
def bodyUnknown (op : Byte) (s : State) : State := errorResponse (s.note (.unknownOpcode op))

/-! ### The meanings -/

def execGetstat (s : State) : Result := operate (dispatch bodyGetstat) s
def execSetloc (s : State) : Result := operate (dispatch bodySetloc) s
def execPlay (s : State) : Result := operate (dispatch bodyPlay) s
def execReadN (s : State) : Result := operate (dispatch bodyReadN) s
def execMotorOn (s : State) : Result := operate (dispatch bodyMotorOn) s
def execStop (s : State) : Result := operate (dispatch bodyStop) s
def execPause (s : State) : Result := operate (dispatch bodyPause) s
def execInit (s : State) : Result := operate (dispatch bodyInit) s
def execMute (s : State) : Result := operate (dispatch bodyMute) s
def execDemute (s : State) : Result := operate (dispatch bodyDemute) s
def execSetmode (s : State) : Result := operate (dispatch bodySetmode) s
def execGetparam (s : State) : Result := operate (dispatch bodyGetparam) s
def execGetTN (s : State) : Result := operate (dispatch bodyGetTN) s
def execGetTD (s : State) : Result := operate (dispatch bodyGetTD) s
def execSeekL (s : State) : Result := operate (dispatch bodySeekL) s
def execTest (s : State) : Result := operate (dispatch bodyTest) s
def execGetID (s : State) : Result := operate (dispatch bodyGetID) s
def execReadS (s : State) : Result := operate (dispatch bodyReadS) s
def execUnknown (op : Byte) (s : State) : Result := operate (dispatch (bodyUnknown op)) s

/-- The command a name of the opcode table stands for. -/
def execCommand : CommandName → State → Result
  | .getstat, s => execGetstat s
  | .setloc, s => execSetloc s
  | .play, s => execPlay s
  | .readN, s => execReadN s
  | .motorOn, s => execMotorOn s
  | .stop, s => execStop s
  | .pause, s => execPause s
  | .init, s => execInit s
  | .mute, s => execMute s
  | .demute, s => execDemute s
  | .setmode, s => execSetmode s
  | .getparam, s => execGetparam s
  | .getTN, s => execGetTN s
  | .getTD, s => execGetTD s
  | .seekL, s => execSeekL s
  | .test, s => execTest s
  | .getID, s => execGetID s
  | .readS, s => execReadS s

end Sys2Proof.Machine
end

