-- ==== Sys2Proof/Machine/RegisterFile.lean ====
section
/-! DEFINITION. The register file operations (40_register_file.md). A read leaves its result in `readValue`. -/

namespace Sys2Proof.Machine

/-- R120. The descriptor's `ii` repeats the state field `index`, which is what `STAT` reports (log 5). -/
def execRdStat (_ii : Index) (s : State) : Result := operate (fun s => s.answer (.byte (stat s.cfg s.cdc))) s

/-- R121: "Bits 7:2 of `v` are ignored". -/
def execWrIndex (_ii : Index) (v : Byte) (s : State) : Result :=
  operate (fun s => s.onCdc fun c => { c with index := v.extractLsb' 0 2 }) s

/-- R125: "The whole command, including every envelope it pushes, executes inside this one write". -/
def execWrCmd (v : Byte) (s : State) : Result :=
  match lookupCommand s.cfg.encodings.opcodes v with
  | some c => execCommand c s
  | none => execUnknown v s

/-- The body of R130 and R131. -/
def readResponse (s : State) : State :=
  match s.cdc.respFifo with
  | [] => s.answer (.byte s.cfg.emptyReadValue)
  | b :: rest => (s.onCdc fun c => { c with respFifo := rest }).answer (.byte b)

def execRdResp (_ii : Index) (s : State) : Result := operate readResponse s

/-- R135, R136. -/
def execWrParam (v : Byte) (s : State) : Result := operate (pushParam v) s

/-- R138, with the body of R264. -/
def execRdData (_ii : Index) (s : State) : Result :=
  operate (fun s => (s.onCdc (dataAdvance s.cfg)).answer (.byte (dataByte s.cfg s.cdc))) s

/-- R141. -/
def execWrIrqen (v : Byte) (s : State) : Result := operate (fun s => s.onCdc fun c => { c with irqEnable := v }) s

/-- R142. -/
def execRdIrqen (_i : BitVec 1) (s : State) : Result := operate (fun s => s.answer (.byte s.cdc.irqEnable)) s

/-- The bytes of R144: the front code zero-extended, 0x00 with the queue empty. -/
def irqFlag (c : Cdc) : Byte :=
  match c.irqFifo with
  | [] => 0x00#8
  | code :: _ => code.setWidth 8

/-- R144. -/
def execRdIrqflag (_i : BitVec 1) (s : State) : Result := operate (fun s => s.answer (.byte (irqFlag s.cdc))) s

/-- The two independent effects of R143 on the record. -/
def acknowledge (cfg : Config) (v : Byte) (c : Cdc) : Cdc :=
  { c with
    paramFifo := if v &&& cfg.ackParamReset != 0#8 then [] else c.paramFifo
    irqFifo := if v &&& cfg.ackPopMask != 0#8 then c.irqFifo.tail else c.irqFifo }

/-- R143. -/
def execWrIrqack (v : Byte) (s : State) : Result := operate (fun s => s.onCdc (acknowledge s.cfg v)) s

/-- R145: "Only bit 7 (the high bit) is used". -/
def execWrReq (v : Byte) (s : State) : Result := operate (request (v.getLsbD 7)) s

/-- A read pair that the register map leaves out: "the read returns 0x00 and changes nothing"; it is logged (R68). -/
def execUnmappedRead (aa ii : Index) (s : State) : Result :=
  operate (fun s => (s.answer (.byte 0x00#8)).note (.ignoredRead aa ii)) s

/-- `WR_NOP(a, index, v)`: a diagnostic, "no state change" (R150). -/
def ignoreWrite (aa ii : Index) (v : Byte) (s : State) : Result := operate (·.note (.ignoredWrite aa ii v)) s

def execWrNop11 (v : Byte) (s : State) : Result := ignoreWrite 1#2 1#2 v s
def execWrNop12 (v : Byte) (s : State) : Result := ignoreWrite 1#2 2#2 v s
def execWrNop13 (v : Byte) (s : State) : Result := ignoreWrite 1#2 3#2 v s
def execWrNop22 (v : Byte) (s : State) : Result := ignoreWrite 2#2 2#2 v s
def execWrNop23 (v : Byte) (s : State) : Result := ignoreWrite 2#2 3#2 v s
def execWrNop32 (v : Byte) (s : State) : Result := ignoreWrite 3#2 2#2 v s
def execWrNop33 (v : Byte) (s : State) : Result := ignoreWrite 3#2 3#2 v s

end Sys2Proof.Machine
end

