-- ==== Sys2Proof/Machine/Dispatch.lean ====
section
/-! DEFINITION. One arm per operation of the opcode table. -/

namespace Sys2Proof.Machine

def exec (i : Instr) (s : State) : Host.Outcome State Fault Refusal :=
  match i with
  | .getstat => Sys2Proof.Machine.execGetstat s
  | .setloc => Sys2Proof.Machine.execSetloc s
  | .play => Sys2Proof.Machine.execPlay s
  | .readN => Sys2Proof.Machine.execReadN s
  | .motorOn => Sys2Proof.Machine.execMotorOn s
  | .stop => Sys2Proof.Machine.execStop s
  | .pause => Sys2Proof.Machine.execPause s
  | .init => Sys2Proof.Machine.execInit s
  | .mute => Sys2Proof.Machine.execMute s
  | .demute => Sys2Proof.Machine.execDemute s
  | .setmode => Sys2Proof.Machine.execSetmode s
  | .getparam => Sys2Proof.Machine.execGetparam s
  | .getTN => Sys2Proof.Machine.execGetTN s
  | .getTD => Sys2Proof.Machine.execGetTD s
  | .seekL => Sys2Proof.Machine.execSeekL s
  | .test => Sys2Proof.Machine.execTest s
  | .getID => Sys2Proof.Machine.execGetID s
  | .readS => Sys2Proof.Machine.execReadS s
  | .unknown op => Sys2Proof.Machine.execUnknown op s
  | .rdStat ii => Sys2Proof.Machine.execRdStat ii s
  | .wrIndex ii v => Sys2Proof.Machine.execWrIndex ii v s
  | .wrCmd v => Sys2Proof.Machine.execWrCmd v s
  | .rdResp ii => Sys2Proof.Machine.execRdResp ii s
  | .wrParam v => Sys2Proof.Machine.execWrParam v s
  | .rdData ii => Sys2Proof.Machine.execRdData ii s
  | .wrIrqen v => Sys2Proof.Machine.execWrIrqen v s
  | .rdIrqen i1 => Sys2Proof.Machine.execRdIrqen i1 s
  | .wrIrqack v => Sys2Proof.Machine.execWrIrqack v s
  | .rdIrqflag i1 => Sys2Proof.Machine.execRdIrqflag i1 s
  | .wrReq v => Sys2Proof.Machine.execWrReq v s
  | .wrNop11 v => Sys2Proof.Machine.execWrNop11 v s
  | .wrNop12 v => Sys2Proof.Machine.execWrNop12 v s
  | .wrNop13 v => Sys2Proof.Machine.execWrNop13 v s
  | .wrNop22 v => Sys2Proof.Machine.execWrNop22 v s
  | .wrNop23 v => Sys2Proof.Machine.execWrNop23 v s
  | .wrNop32 v => Sys2Proof.Machine.execWrNop32 v s
  | .wrNop33 v => Sys2Proof.Machine.execWrNop33 v s
  | .tick => Sys2Proof.Machine.execTick s
  | .rdDataWord => Sys2Proof.Machine.execRdDataWord s
  | .reset => Sys2Proof.Machine.execReset s

end Sys2Proof.Machine
end

