-- ==== Sys2Proof/Machine/Fetch.lean ====
section
/-! DEFINITION. From the transaction at the front of the inbox to an encoded operation and its instruction, and
the placing of an encoded operation there. -/

namespace Sys2Proof.Machine

/-- The offset of an address in the window, if it is one of its four registers (R61, R64). -/
def windowOffset (cfg : Config) (addr : Nat) : Option Index :=
  if cfg.cdromBase ≤ addr ∧ addr < cfg.cdromBase + 4 then some (BitVec.ofNat 2 (addr - cfg.cdromBase)) else none

/-- R13: a byte access inside the window is the register access its offset and the current `index` select; a
4-byte read at offset 2 is `DataWordRead`; nothing else is an operation of the CDC (R63, R64). -/
def route (s : State) : Transaction → Except Refusal Encoded
  | .memRead addr width =>
    match windowOffset s.cfg addr with
    | none => .error .accessOutsideWindow
    | some a =>
      if width = 1 then .ok (.read a s.cdc.index)
      else if width = 4 ∧ a = 2#2 then .ok (.evt 1#2)
      else .error .accessWidth
  | .memWrite addr bytes =>
    match windowOffset s.cfg addr, bytes with
    | none, _ => .error .accessOutsideWindow
    | some a, [v] => .ok (.write a s.cdc.index v)
    | some _, _ => .error .accessWidth
  | .event code => .ok (.evt code)

/-- What a transaction is, in the state it is applied to. -/
inductive Fetched where
  | operation (i : Instr)
  | unmappedRead (aa ii : Index)
  | refused (r : Refusal)
deriving DecidableEq, Repr

/-- What a transaction is, in the state it is applied to: an operation of the table, a read the map leaves out
(R68), or no operation of the CDC. -/
def fetch (s : State) (t : Transaction) : Fetched :=
  match route s t with
  | .error r => .refused r
  | .ok e =>
    match decode s.cfg.encodings e with
    | .error .unusedEventCode => .refused .unusedEventCode
    | .error (.unmappedRead aa ii) => .unmappedRead aa ii
    | .ok i => .operation i

/-- Put an encoded operation in front of the inbox. A descriptor's `ii` is the value of `index` (R91), and a
command is its opcode byte written to the command register (R94, R125), so both set `index`. -/
def stage (s : State) : Encoded → State
  | .cmd op =>
    match s.cfg.encodings.writePair .command with
    | none => s
    | some (aa, ii) =>
      { s with
        cdc := { s.cdc with index := ii }
        inbox := .memWrite (s.cfg.cdromBase + aa.toNat) [op] :: s.inbox }
  | .read aa ii =>
    { s with
      cdc := { s.cdc with index := ii }
      inbox := .memRead (s.cfg.cdromBase + aa.toNat) 1 :: s.inbox }
  | .write aa ii v =>
    { s with
      cdc := { s.cdc with index := ii }
      inbox := .memWrite (s.cfg.cdromBase + aa.toNat) [v] :: s.inbox }
  | .evt code => { s with inbox := .event code :: s.inbox }

end Sys2Proof.Machine
end

