-- ==== Sys2Proof/Machine/Step.lean ====
section
/-! DEFINITION. One step: the operation at the front of the inbox, atomically (20_memory.md R70, R72). -/

namespace Sys2Proof.Machine

/-- "The CDC itself never takes a step of its own" (R9): with no operation waiting nothing changes (log 2). -/
def step (s : State) : Host.Outcome State Fault Refusal :=
  match s.inbox with
  | [] => .next s
  | t :: rest =>
    match fetch s t with
    | .refused r => .refused r
    | .unmappedRead aa ii => execUnmappedRead aa ii { s with inbox := rest }
    | .operation i => exec i { s with inbox := rest }

/-- `s` with the operation a word of spec/opcode_table.json stands for as the next one to be applied (log 3, 4). -/
def State.withFetchWord (s : State) (nbits w : Nat) : State := stage s (tableEncoding s.cfg.encodings nbits w)

end Sys2Proof.Machine
end

