-- ==== Sys2Proof/WellFormed.lean ====
section
/-! DEFINITION. Which terms of `Instr` name an operation of the table, and which parameters describe a layout. Every
operand field of `Instr` admits every value of its width but one: the default row's byte is none of the 18 opcodes
(R96, R199). -/

namespace Sys2Proof

/-- `Unknown` is "every opcode not in rule R96" (R199). -/
def Instr.wellFormed (e : Encodings) : Instr → Bool
  | .unknown op => (lookupCommand e.opcodes op).isNone
  | .getstat | .setloc | .play | .readN | .motorOn | .stop | .pause | .init | .mute | .demute => true
  | .setmode | .getparam | .getTN | .getTD | .seekL | .test | .getID | .readS => true
  | .rdStat _ | .wrIndex _ _ | .wrCmd _ | .rdResp _ | .wrParam _ | .rdData _ | .wrIrqen _ | .rdIrqen _ => true
  | .wrIrqack _ | .rdIrqflag _ | .wrReq _ => true
  | .wrNop11 _ | .wrNop12 _ | .wrNop13 _ | .wrNop22 _ | .wrNop23 _ | .wrNop32 _ | .wrNop33 _ => true
  | .tick | .rdDataWord | .reset => true

/-! ### Layouts -/

/-- No two commands share an opcode. -/
def Opcodes.wellFormed (o : Opcodes) : Bool := decide (commandNames.map o.of).Nodup

/-- No two pairs of the map share a row. -/
abbrev OneToOne {α : Type} (row : Index → Index → Option α) : Prop :=
  ∀ aa ii aa' ii' : Index, (row aa ii).isSome = true → row aa ii = row aa' ii' → aa = aa' ∧ ii = ii'

/-- Each encoding has one meaning ("every one of the 32 descriptors matches exactly one row", R92). -/
def Encodings.wellFormed (e : Encodings) : Bool :=
  e.opcodes.wellFormed && decide (OneToOne e.writeRow) && decide (OneToOne e.readRow)

/-- The map has a pair for every row of R92. -/
def Encodings.complete (e : Encodings) : Bool :=
  ([.command, .parameter, .irqEnable, .irqAck, .request].all fun row => (e.writePair row).isSome) &&
  ([.nop11, .nop12, .nop13, .nop22, .nop23, .nop32, .nop33].all fun row => (e.writePair row).isSome) &&
  ([0#2, 1#2, 2#2, 3#2].all fun i => (e.readPair (.response i)).isSome && (e.readPair (.data i)).isSome) &&
  ([0#1, 1#1].all fun i => (e.readPair (.irqEnable i)).isSome && (e.readPair (.irqFlag i)).isSome)

/-- The index takes two bits and each flag one, of a byte (R27). -/
def StatBits.wellFormed (b : StatBits) : Bool :=
  decide [b.index.val, b.index.val + 1, b.adpcm.val, b.prmEmpty.val, b.prmWritable.val, b.rspNonempty.val,
    b.dataNonempty.val, b.busy.val].Nodup

/-- Each flag and each tag has a bit of its own (R31). -/
def DriveBits.wellFormed (b : DriveBits) : Bool :=
  decide [b.error, b.motorOn, b.seekError, b.idError, b.shellOpen, b.reading, b.seeking, b.playing].Nodup

end Sys2Proof
end

