-- ==== Sys2Proof/Safety.lean ====
section
/-! DEFINITION. What counts as a safe run (60_exceptions.md R302), and the invariants of 10_state.md R47. -/

namespace Sys2Proof.Machine

/-- No fatal recorded: "every claim about a host program takes no fatal recorded as a premise or proves it" (R302). -/
def State.Safe (s : State) : Prop := s.cdc.fatal = none

/-- `t` is reached from `s` by some number of steps. -/
inductive Reaches (s : State) : State → Prop where
  | refl : Reaches s s
  | step {t u : State} : Reaches s t → Machine.step t = .next u → Reaches s u

/-- Every state a run passes through is free of a fatal. -/
def State.SafeRun (s : State) : Prop := ∀ t, Reaches s t → t.Safe

/-- `code` is one of the four interrupt codes (R100). -/
def IsCode (cfg : Config) (code : IrqCode) : Prop :=
  code = cfg.intDataReady ∨ code = cfg.intDone ∨ code = cfg.intAck ∨ code = cfg.intError

/-- `tag` is the state of the drive, its bit the only state bit set. -/
abbrev onlyState (s : State) (tag : StateTag) : Prop :=
  s.cdc.drive &&& stateMask s.cfg.driveBits = tagBit s.cfg.driveBits tag

/-- R47, item by item; item 4 is the type `Vector Byte 2352`, and of item 5 the unconditional half. -/
structure CdcOk (cfg : Config) (c : Cdc) : Prop where
  /-- item 1 -/
  queues_bounded : c.paramFifo.length ≤ fifoCap ∧ c.respFifo.length ≤ fifoCap ∧ c.irqFifo.length ≤ fifoCap
  /-- item 2: at most one of the state bits is 1 -/
  one_state_bit : c.drive &&& stateMask cfg.driveBits = tagBit cfg.driveBits (stateTag cfg.driveBits c.drive)
  /-- item 3 -/
  countdown_in_range : 1 ≤ c.countdown ∧ c.countdown ≤ cfg.sectorPeriod
  /-- item 5 -/
  cursor_bounded : c.cursor ≤ cfg.payloadWhole
  /-- item 6 -/
  codes_known : ∀ code ∈ c.irqFifo, IsCode cfg code
  /-- item 7 -/
  mode_supported : c.mode &&& cfg.modeUnsupportedMask = 0#8
  /-- item 8 -/
  adpcm_clear : c.adpcmEmpty = false
  /-- item 9: `ERROR`, `SEEK_ERROR`, `ID_ERROR` and `SHELL_OPEN` are 0 -/
  flags_clear : c.drive &&& errorMask cfg.driveBits = 0#8

/-- What the spec asks of the parameters. -/
structure ConfigOk (cfg : Config) : Prop where
  /-- `SECTOR_PERIOD` is positive (R244). -/
  period_pos : 1 ≤ cfg.sectorPeriod
  /-- The codes are in 1..7 (decision D6). -/
  codes_nonzero : cfg.intDataReady ≠ 0#3 ∧ cfg.intDone ≠ 0#3 ∧ cfg.intAck ≠ 0#3 ∧ cfg.intError ≠ 0#3
  /-- Each encoding has one meaning, and each row of the table an encoding (R92, R95). -/
  encodings_ok : cfg.encodings.wellFormed = true ∧ cfg.encodings.complete = true
  /-- No two fields of the status register share a bit (R27). -/
  stat_bits_ok : cfg.statBits.wellFormed = true
  /-- No two fields of the drive status byte share a bit (R31). -/
  drive_bits_ok : cfg.driveBits.wellFormed = true
  /-- The whole-sector payload is the larger one (R34). -/
  payload_larger : payloadDataOnly < cfg.payloadWhole
  /-- "the invariants of `10_state.md` rule R47 are required of every initial state in any case" (R341). -/
  reset_ok : CdcOk cfg (Cdc.reset cfg)
  /-- The other half of R47's item 5, in a state where no mode has been changed. -/
  reset_cursor_ok : (Cdc.reset cfg).cursor ≤ payloadLen cfg (Cdc.reset cfg)

/-- The invariant of the machine: the parameters are legal, the provider's tables canonical, and R47 holds. -/
structure State.Inv (s : State) : Prop where
  config_ok : ConfigOk s.cfg
  disc_ok : s.disc.wf
  cdc_ok : CdcOk s.cfg s.cdc

end Sys2Proof.Machine
end

