-- ==== Sys2Proof/Certificates/Slice0/Obligations.lean ====
section
/-! DEFINITION. The statements about the model. A command's or a register operation's statement gives the WHOLE next
state as a record: a field it does not name is unchanged, the sector buffers, the parameters, the provider, the inbox
and the history of raises among them. -/

open Sys2Proof Sys2Proof.Machine

/-! ### Encodings -/

/-- No bit of an encoding is dropped, whatever opcode numbers and register map are configured (R8): decoding what the
encoder writes gives the operation back, for every operation with every operand at every value, and a map that has a
pair for every row leaves no operation without an encoding. The spec's own values are such a configuration
(R92, R93, R96; the formats are the spec's decision D31, the values D2, D3 and D7). -/
def Obligations.DecodeOfEncodeGivesTheInstruction : Prop :=
  (∀ (enc : Encodings) (i : Instr), enc.wellFormed = true → i.wellFormed enc = true →
    (∀ e : Encoded, encode enc i = some e → decode enc e = .ok i) ∧
    (enc.complete = true → ∃ e : Encoded, encode enc i = some e)) ∧
  specEncodings.wellFormed = true ∧ specEncodings.complete = true

/-- Each encoding has one meaning: what decodes to an operation is that operation's encoding, and the operation is
well-formed ("every one of the 32 descriptors matches exactly one row", R92). -/
def Obligations.EncodeOfDecodeGivesTheEncoding : Prop :=
  ∀ (enc : Encodings) (e : Encoded) (i : Instr), enc.wellFormed = true → decode enc e = .ok i →
    encode enc i = some e ∧ i.wellFormed enc = true

/-- The decoder is total and refuses the event code 11 ("Code `11` is unused", R93) and the read pairs that the
register map leaves out (R68), nothing else ("No byte value is refused", R95); the spec's own map leaves out none. -/
def Obligations.DecoderRefusesOnlyTheUnusedEventCode : Prop :=
  (∀ (enc : Encodings) (e : Encoded), (∃ d, decode enc e = .error d) ↔
    e = .evt 3#2 ∨ ∃ aa ii : Index, e = .read aa ii ∧ aa ≠ 0#2 ∧ enc.readRow aa ii = none) ∧
  ∀ e : Encoded, (∃ d, decode specEncodings e = .error d) ↔ e = .evt 3#2

/-- Words written out from the tables of R92, R93 and R96, one or more of each format. -/
def Obligations.WordsOfTheSpecDecode : Prop :=
  decode specEncodings (.cmd 0b00000010#8) = .ok .setloc ∧ decode specEncodings (.cmd 0b00001010#8) = .ok .init ∧
  decode specEncodings (.cmd 0b00010100#8) = .ok .getTD ∧ decode specEncodings (.cmd 0b00011011#8) = .ok .readS ∧
  decode specEncodings (.cmd 0b00000100#8) = .ok (.unknown 0x04#8) ∧
  decode specEncodings (.cmd 0b11111111#8) = .ok (.unknown 0xFF#8) ∧
  decode specEncodings (.read 0b00#2 0b11#2) = .ok (.rdStat 3#2) ∧
  decode specEncodings (.read 0b11#2 0b10#2) = .ok (.rdIrqen 1#1) ∧
  decode specEncodings (.read 0b11#2 0b01#2) = .ok (.rdIrqflag 0#1) ∧
  decode specEncodings (.write 0b01#2 0b00#2 0x0A#8) = .ok (.wrCmd 0x0A#8) ∧
  decode specEncodings (.write 0b10#2 0b01#2 0x1F#8) = .ok (.wrIrqen 0x1F#8) ∧
  decode specEncodings (.write 0b11#2 0b01#2 0x07#8) = .ok (.wrIrqack 0x07#8) ∧
  decode specEncodings (.write 0b11#2 0b10#2 0x80#8) = .ok (.wrNop32 0x80#8) ∧
  decode specEncodings (.evt 0b00#2) = .ok .tick ∧ decode specEncodings (.evt 0b01#2) = .ok .rdDataWord ∧
  decode specEncodings (.evt 0b10#2) = .ok .reset

/-! ### The step -/

/-- A step applies the operation at the front of the inbox: when that transaction is the encoding `e` in the state it
is applied to, and `e` decodes to `i`, the step is `exec i` on the state without that transaction (R72). The step adds
nothing else: there is no program counter (R45). -/
def Obligations.StepRunsTheDecodedInstruction : Prop :=
  ∀ (s : State) (t : Transaction) (rest : List Transaction) (e : Encoded) (i : Instr),
    s.inbox = t :: rest → route s t = .ok e → decode s.cfg.encodings e = .ok i →
    step s = exec i { s with inbox := rest }

/-- Which operation a host access or an event is: a byte access at `CDROM_BASE + a` is the register access that the
offset `a` and the `index` in force select in the register map, a 4-byte read at `CDROM_BASE + 2` is the word read, an
event is its `EVT` row (R13, R61, R91, R93); a read the map leaves out "returns 0x00 and changes nothing" (R68; the
log is the model's record of the diagnostic, log 12). The entry points and the map are the spec's decisions D1, D2,
D3, D31. -/
def Obligations.WindowAccessSelectsTheOperation : Prop :=
  (∀ (s : State) (a : Index) (i : Instr) (rest : List Transaction),
    s.inbox = .memRead (s.cfg.cdromBase + a.toNat) 1 :: rest → decodeRead s.cfg.encodings a s.cdc.index = .ok i →
    step s = exec i { s with inbox := rest }) ∧
  (∀ (s : State) (a : Index) (rest : List Transaction),
    s.inbox = .memRead (s.cfg.cdromBase + a.toNat) 1 :: rest → s.cdc.fatal = none → a ≠ 0#2 →
    s.cfg.encodings.readRow a s.cdc.index = none →
    step s = .next { s with
      inbox := rest, readValue := some (.byte 0x00#8), log := s.log ++ [.ignoredRead a s.cdc.index] }) ∧
  (∀ (s : State) (a : Index) (v : Byte) (rest : List Transaction),
    s.inbox = .memWrite (s.cfg.cdromBase + a.toNat) [v] :: rest →
    step s = exec (decodeWrite s.cfg.encodings a s.cdc.index v) { s with inbox := rest }) ∧
  (∀ (s : State) (rest : List Transaction), s.inbox = .memRead (s.cfg.cdromBase + 2) 4 :: rest →
    step s = exec .rdDataWord { s with inbox := rest }) ∧
  (∀ (s : State) (rest : List Transaction), s.inbox = .event 0#2 :: rest →
    step s = exec .tick { s with inbox := rest }) ∧
  (∀ (s : State) (rest : List Transaction), s.inbox = .event 1#2 :: rest →
    step s = exec .rdDataWord { s with inbox := rest }) ∧
  (∀ (s : State) (rest : List Transaction), s.inbox = .event 2#2 :: rest →
    step s = exec .reset { s with inbox := rest })

/-- Every other access is refused by name: one outside the four registers (R64), one of another width (R63, decision
D30), the unused event code (R93). -/
def Obligations.OtherAccessesAreRefused : Prop :=
  ∀ (s : State) (rest : List Transaction),
    (∀ addr width, s.inbox = .memRead addr width :: rest → (addr < s.cfg.cdromBase ∨ s.cfg.cdromBase + 3 < addr) →
      step s = .refused .accessOutsideWindow) ∧
    (∀ addr bytes, s.inbox = .memWrite addr bytes :: rest → (addr < s.cfg.cdromBase ∨ s.cfg.cdromBase + 3 < addr) →
      step s = .refused .accessOutsideWindow) ∧
    (∀ addr width, s.inbox = .memRead addr width :: rest → s.cfg.cdromBase ≤ addr → addr ≤ s.cfg.cdromBase + 3 →
      width ≠ 1 → ¬(width = 4 ∧ addr = s.cfg.cdromBase + 2) → step s = .refused .accessWidth) ∧
    (∀ addr bytes, s.inbox = .memWrite addr bytes :: rest → s.cfg.cdromBase ≤ addr → addr ≤ s.cfg.cdromBase + 3 →
      bytes.length ≠ 1 → step s = .refused .accessWidth) ∧
    (s.inbox = .event 3#2 :: rest → step s = .refused .unusedEventCode)

/-- A word of the opcode table placed at the front of the inbox is what the next step runs, whatever format it has
(the model's placing, log 3 and 4; a command is its opcode byte written to the command register, R94). The word is
read in the encodings of the machine it is placed in; the opcode table's own are the spec's. -/
def Obligations.PlacedTableWordIsWhatTheNextStepRuns : Prop :=
  (∀ (s : State) (nbits w : Nat) (i : Instr), s.cfg.encodings.complete = true →
    decodeWord s.cfg.encodings nbits w = some i →
    step (s.withFetchWord nbits w) = exec i { s.withFetchWord nbits w with inbox := s.inbox }) ∧
  ∀ (s : State) (nbits w : Nat) (i : Instr), s.cfg.encodings = specEncodings → decodeTableWord nbits w = some i →
    step (s.withFetchWord nbits w) = exec i { s.withFetchWord nbits w with inbox := s.inbox }

/-! ### The dispatcher -/

/-- The write of the command register is the whole command its byte decodes to, Unknown included (R125, R170). -/
def Obligations.CommandWriteRunsTheDecodedCommand : Prop :=
  ∀ (op : Byte) (s : State), exec (.wrCmd op) s = exec (decodeCommand s.cfg.encodings.opcodes op) s

/-- Step (1) of every dispatch (R171): it empties the interrupt-code and response queues and nothing else, the
parameter queue among what it leaves; and it comes before everything, so that for every opcode byte, an unknown one
too, what those two queues held before the command has no influence on anything after it. -/
def Obligations.CommandDiscardsEarlierResponses : Prop :=
  ∀ (op : Byte) (s : State) (resp : List Byte) (irq : List IrqCode),
    clearResponses s = { s with cdc := { s.cdc with irqFifo := [], respFifo := [] } } ∧
    exec (.wrCmd op) { s with cdc := { s.cdc with respFifo := resp, irqFifo := irq } } = exec (.wrCmd op) s

/-- When the write of the command register completes, for every opcode byte: with enough parameters queued (R300), and
for Setmode no unsupported bit (R301), the command ends with the parameter queue empty and `busy` set (R176), one or
two codes and one to nine response bytes queued (R179), and no fatal. -/
def Obligations.CommandWriteCompletesWhenSupplied : Prop :=
  ∀ (op : Byte) (s : State), s.cdc.fatal = none →
    (op = s.cfg.encodings.opcodes.setloc → 3 ≤ s.cdc.paramFifo.length) →
    (op = s.cfg.encodings.opcodes.setmode ∨ op = s.cfg.encodings.opcodes.getTD ∨ op = s.cfg.encodings.opcodes.test →
      1 ≤ s.cdc.paramFifo.length) →
    (op = s.cfg.encodings.opcodes.setmode → s.cdc.paramFifo.headD 0#8 &&& s.cfg.modeUnsupportedMask = 0#8) →
    ∃ t : State, exec (.wrCmd op) s = .next t ∧ t.cdc.fatal = none ∧ t.cdc.paramFifo = [] ∧ t.cdc.busy = true ∧
      1 ≤ t.cdc.irqFifo.length ∧ t.cdc.irqFifo.length ≤ 2 ∧ 1 ≤ t.cdc.respFifo.length ∧ t.cdc.respFifo.length ≤ 9

/-! ### The commands -/

/-- Getstat (R180). -/
def Obligations.GetstatAcknowledges : Prop :=
  ∀ s : State, s.cdc.fatal = none →
    exec .getstat s = .next { s with cdc := { s.cdc with
      irqFifo := [s.cfg.intAck], respFifo := [s.cdc.drive], paramFifo := [], busy := true } }

/-- Setloc with its three parameters (R181): minutes, seconds and frames, BCD, become the seek target. -/
def Obligations.SetlocStoresTheSeekTarget : Prop :=
  ∀ (s : State) (mm ss ff : Byte) (rest : List Byte), s.cdc.fatal = none →
    s.cdc.paramFifo = mm :: ss :: ff :: rest →
    exec .setloc s = .next { s with cdc := { s.cdc with
      seekTarget := toLba { m := bcdDec mm, s := bcdDec ss, f := bcdDec ff },
      irqFifo := [s.cfg.intAck], respFifo := [s.cdc.drive], paramFifo := [], busy := true } }

/-- Play (R182): the ack carries the status with `PLAYING` already set. -/
def Obligations.PlayStartsAtTheSeekTarget : Prop :=
  ∀ (s : State) (d : Byte), s.cdc.fatal = none →
    d = (s.cdc.drive &&& ~~~stateMask s.cfg.driveBits) ||| bitMask s.cfg.driveBits.playing →
    exec .play s = .next { s with cdc := { s.cdc with
      readPos := s.cdc.seekTarget, drive := d, irqFifo := [s.cfg.intAck], respFifo := [d],
      paramFifo := [], busy := true } }

/-- ReadN and ReadS, "the same operation under two opcodes" (R185, R197). -/
def Obligations.ReadCommandsStartAtTheSeekTarget : Prop :=
  ∀ (i : Instr) (s : State) (d : Byte), i = .readN ∨ i = .readS → s.cdc.fatal = none →
    d = (s.cdc.drive &&& ~~~stateMask s.cfg.driveBits) ||| bitMask s.cfg.driveBits.reading →
    exec i s = .next { s with cdc := { s.cdc with
      readPos := s.cdc.seekTarget, drive := d, irqFifo := [s.cfg.intAck], respFifo := [d],
      paramFifo := [], busy := true } }

/-- MotorOn (R183): both envelopes carry the status with `MOTOR_ON` set. -/
def Obligations.MotorOnSetsTheMotorFlag : Prop :=
  ∀ (s : State) (d : Byte), s.cdc.fatal = none → d = s.cdc.drive ||| bitMask s.cfg.driveBits.motorOn →
    exec .motorOn s = .next { s with cdc := { s.cdc with
      drive := d, irqFifo := [s.cfg.intAck, s.cfg.intDone], respFifo := [d, d], paramFifo := [], busy := true } }

/-- Stop (R184): both envelopes carry the status after the change. -/
def Obligations.StopClearsStateAndMotor : Prop :=
  ∀ (s : State) (d : Byte), s.cdc.fatal = none →
    d = s.cdc.drive &&& ~~~stateMask s.cfg.driveBits &&& ~~~bitMask s.cfg.driveBits.motorOn →
    exec .stop s = .next { s with cdc := { s.cdc with
      drive := d, irqFifo := [s.cfg.intAck, s.cfg.intDone], respFifo := [d, d], paramFifo := [], busy := true } }

/-- Pause (R189): the ack carries the status before, the done the status after. -/
def Obligations.PauseStopsBetweenItsEnvelopes : Prop :=
  ∀ (s : State) (d : Byte), s.cdc.fatal = none → d = s.cdc.drive &&& ~~~stateMask s.cfg.driveBits →
    exec .pause s = .next { s with cdc := { s.cdc with
      drive := d, irqFifo := [s.cfg.intAck, s.cfg.intDone], respFifo := [s.cdc.drive, d],
      paramFifo := [], busy := true } }

/-- Init (R196; that it resets the status byte only is the spec's decision D26): ack with the status before, then
`drive` the motor flag alone whatever it was, then done. -/
def Obligations.InitResetsTheDriveStatus : Prop :=
  ∀ (s : State) (d : Byte), s.cdc.fatal = none → d = bitMask s.cfg.driveBits.motorOn →
    exec .init s = .next { s with cdc := { s.cdc with
      drive := d, irqFifo := [s.cfg.intAck, s.cfg.intDone], respFifo := [s.cdc.drive, d],
      paramFifo := [], busy := true } }

/-- Mute sets and Demute clears the mute flag (R187, R188; the reading of "toggle" is the spec's decision D24). -/
def Obligations.MuteSetsAndDemuteClears : Prop :=
  ∀ s : State, s.cdc.fatal = none →
    exec .mute s = .next { s with cdc := { s.cdc with
      mute := true, irqFifo := [s.cfg.intAck], respFifo := [s.cdc.drive], paramFifo := [], busy := true } } ∧
    exec .demute s = .next { s with cdc := { s.cdc with
      mute := false, irqFifo := [s.cfg.intAck], respFifo := [s.cdc.drive], paramFifo := [], busy := true } }

/-- Setmode with a supported mode byte stores it raw (R186; which bits are unsupported is the parameter
`MODE_UNSUPPORTED_MASK`, decision D9). -/
def Obligations.SetmodeStoresTheModeByte : Prop :=
  ∀ (s : State) (p : Byte) (rest : List Byte), s.cdc.fatal = none → s.cdc.paramFifo = p :: rest →
    p &&& s.cfg.modeUnsupportedMask = 0#8 →
    exec .setmode s = .next { s with cdc := { s.cdc with
      mode := p, irqFifo := [s.cfg.intAck], respFifo := [s.cdc.drive], paramFifo := [], busy := true } }

/-- Getparam answers the status and the two reserved bytes (R190; their values are the parameter
`GETPARAM_RESERVED`, decision D22). -/
def Obligations.GetparamAnswersStatusAndReservedBytes : Prop :=
  ∀ s : State, s.cdc.fatal = none →
    exec .getparam s = .next { s with cdc := { s.cdc with
      irqFifo := [s.cfg.intAck], respFifo := s.cdc.drive :: s.cfg.getparamReserved.toList,
      paramFifo := [], busy := true } }

/-- GetTN answers the status, the first track and the provider's track count in BCD (R191; the first track is the
parameter `FIRST_TRACK`, decision D23). -/
def Obligations.GetTNAnswersTheTrackNumbers : Prop :=
  ∀ s : State, s.cdc.fatal = none →
    exec .getTN s = .next { s with cdc := { s.cdc with
      irqFifo := [s.cfg.intAck],
      respFifo := [s.cdc.drive, bcdEnc s.cfg.firstTrack, bcdEnc s.disc.trackCount],
      paramFifo := [], busy := true } }

/-- GetTD answers the minutes and seconds of the track's start, or of the disc's end for track 0 (R192). -/
def Obligations.GetTDAnswersTheTrackStartOrDiscEnd : Prop :=
  ∀ (s : State) (p : Byte) (rest : List Byte), s.cdc.fatal = none → s.cdc.paramFifo = p :: rest →
    exec .getTD s = .next { s with cdc := { s.cdc with
      irqFifo := [s.cfg.intAck],
      respFifo :=
        if bcdDec p = 0 then [s.cdc.drive, bcdEnc s.disc.discSize.m, bcdEnc s.disc.discSize.s]
        else [s.cdc.drive, bcdEnc (trackStart s.disc (bcdDec p)).m, bcdEnc (trackStart s.disc (bcdDec p)).s],
      paramFifo := [], busy := true } }

/-- SeekL (R193): the ack carries the status before the change, the done the status with `SEEKING` set. -/
def Obligations.SeekLMovesBetweenItsEnvelopes : Prop :=
  ∀ (s : State) (d : Byte), s.cdc.fatal = none →
    d = (s.cdc.drive &&& ~~~stateMask s.cfg.driveBits) ||| bitMask s.cfg.driveBits.seeking →
    exec .seekL s = .next { s with cdc := { s.cdc with
      readPos := s.cdc.seekTarget, drive := d, irqFifo := [s.cfg.intAck, s.cfg.intDone],
      respFifo := [s.cdc.drive, d], paramFifo := [], busy := true } }

/-- Test (R194): sub-function 0x20 answers the four identification bytes, every other one the error response (the
bytes are the parameter `TEST_ID_BYTES`; both are the spec's decision D20). -/
def Obligations.TestAnswersByItsSubfunction : Prop :=
  ∀ (s : State) (p : Byte) (rest : List Byte), s.cdc.fatal = none → s.cdc.paramFifo = p :: rest →
    exec .test s = .next { s with cdc := { s.cdc with
      irqFifo := if p = 0x20#8 then [s.cfg.intAck] else [s.cfg.intError],
      respFifo := if p = 0x20#8 then s.cfg.testIdBytes.toList else [0x11#8, 0x40#8],
      paramFifo := [], busy := true } }

/-- GetID's three ways (R195; the success bytes are the parameter `GETID_OK_PAYLOAD`, and their code `INT_DONE`, the
spec's decision D21). -/
def Obligations.GetIDAnswersThreeWays : Prop :=
  ∀ s : State, s.cdc.fatal = none →
    (s.cdc.drive.getLsbD s.cfg.driveBits.shellOpen = true →
      exec .getID s = .next { s with cdc := { s.cdc with
        irqFifo := [s.cfg.intError], respFifo := [0x11#8, 0x40#8], paramFifo := [], busy := true } }) ∧
    (s.cdc.drive.getLsbD s.cfg.driveBits.shellOpen = false → s.disc.isEmpty = false →
      exec .getID s = .next { s with cdc := { s.cdc with
        irqFifo := [s.cfg.intAck, s.cfg.intDone], respFifo := s.cdc.drive :: s.cfg.getidOkPayload.toList,
        paramFifo := [], busy := true } }) ∧
    (s.cdc.drive.getLsbD s.cfg.driveBits.shellOpen = false → s.disc.isEmpty = true →
      exec .getID s = .next { s with cdc := { s.cdc with
        irqFifo := [s.cfg.intAck, s.cfg.intError],
        respFifo := [s.cdc.drive, 0x08#8, 0x40#8, 0x00#8, 0x00#8, 0x00#8, 0x00#8, 0x00#8, 0x00#8],
        paramFifo := [], busy := true } })

/-- Unknown: a single error response (R199); the log is the model's record of the diagnostic (log 12). -/
def Obligations.UnknownOpcodeAnswersTheErrorResponse : Prop :=
  ∀ (op : Byte) (s : State), s.cdc.fatal = none →
    exec (.unknown op) s = .next { s with
      cdc := { s.cdc with
        irqFifo := [s.cfg.intError], respFifo := [0x11#8, 0x40#8], paramFifo := [], busy := true },
      log := s.log ++ [.unknownOpcode op] }

/-! ### The fatal condition -/

/-- Too few parameters (R300; the latch is the spec's decision D27): Setloc with fewer than 3, Setmode, GetTD and Test
with none. All that were queued have been popped, step (1) has run and step (6) has not. -/
def Obligations.MissingParameterIsFatal : Prop :=
  ∀ (i : Instr) (s : State), s.cdc.fatal = none →
    (i = .setloc ∧ s.cdc.paramFifo.length < 3) ∨ ((i = .setmode ∨ i = .getTD ∨ i = .test) ∧ s.cdc.paramFifo = []) →
    exec i s = .next { s with cdc := { s.cdc with
      irqFifo := [], respFifo := [], paramFifo := [], fatal := some .paramStarvation } }

/-- Setmode with an unsupported bit (R301, decision D9): after the pop, before `mode` is written or anything pushed. -/
def Obligations.UnsupportedModeIsFatal : Prop :=
  ∀ (s : State) (p : Byte) (rest : List Byte), s.cdc.fatal = none → s.cdc.paramFifo = p :: rest →
    p &&& s.cfg.modeUnsupportedMask ≠ 0#8 →
    exec .setmode s = .next { s with cdc := { s.cdc with
      irqFifo := [], respFifo := [], paramFifo := rest, fatal := some .unsupportedMode } }

/-- Once the latch is set no operation but `Reset()` has a step (R302, decision D27). -/
def Obligations.LatchedFatalStopsEveryOperation : Prop :=
  ∀ (i : Instr) (s : State) (k : FatalKind), s.cdc.fatal = some k → i ≠ .reset → exec i s = .fault (.noStep k)

/-- With no fatal latched every operation of the table has a step: no operand, mode or queue content ends a run. -/
def Obligations.EveryOperationHasAStepUnlessLatched : Prop :=
  ∀ (i : Instr) (s : State), s.cdc.fatal = none → ∃ t : State, exec i s = .next t

/-- Nothing else is fatal (R300, R301): an operation that latches a fatal is one of the four commands that take
parameters, by itself or as the byte written to the command register. -/
def Obligations.OnlyParameterCommandsLatchAFatal : Prop :=
  ∀ (i : Instr) (s t : State), exec i s = .next t → s.cdc.fatal = none → t.cdc.fatal ≠ none →
    i = .setloc ∨ i = .setmode ∨ i = .getTD ∨ i = .test ∨
      ∃ op : Byte, i = .wrCmd op ∧
        (op = s.cfg.encodings.opcodes.setloc ∨ op = s.cfg.encodings.opcodes.setmode ∨
          op = s.cfg.encodings.opcodes.getTD ∨ op = s.cfg.encodings.opcodes.test)

/-! ### The register file -/

/-- A read of register 0 returns the status register and changes nothing else (R120); each bit as R27 lays it out, at
the configured positions (decision D4; computed when read, decision D13). -/
def Obligations.StatusReadReportsTheFlags : Prop :=
  ∀ (s : State) (ii : Index), s.cdc.fatal = none → s.cfg.statBits.wellFormed = true →
    ∃ b : Byte, exec (.rdStat ii) s = .next { s with readValue := some (.byte b) } ∧
      b.getLsbD s.cfg.statBits.busy = s.cdc.busy ∧
      b.getLsbD s.cfg.statBits.dataNonempty = (match s.cdc.active with
        | none => false
        | some _ =>
          decide (s.cdc.cursor <
            if s.cdc.mode &&& s.cfg.modeWholeSector ≠ 0#8 then (s.cfg.payloadWhole : Nat) else 2048)) ∧
      b.getLsbD s.cfg.statBits.rspNonempty = decide (0 < s.cdc.respFifo.length) ∧
      b.getLsbD s.cfg.statBits.prmWritable = decide (s.cdc.paramFifo.length < 16) ∧
      b.getLsbD s.cfg.statBits.prmEmpty = decide (s.cdc.paramFifo.length = 0) ∧
      b.getLsbD s.cfg.statBits.adpcm = s.cdc.adpcmEmpty ∧
      b.extractLsb' s.cfg.statBits.index 2 = s.cdc.index

/-- A write of register 0 stores `v[1:0]` into `index` and changes nothing else (R121). -/
def Obligations.IndexWriteStoresTwoBits : Prop :=
  ∀ (s : State) (ii : Index) (v : Byte), s.cdc.fatal = none →
    exec (.wrIndex ii v) s = .next { s with cdc := { s.cdc with index := v.extractLsb' 0 2 } }

/-- A read of the response register pops one byte (R130); with the queue empty it returns `EMPTY_READ_VALUE` and
changes nothing else (R131, decision D15). -/
def Obligations.ResponseReadPopsOneByte : Prop :=
  ∀ (s : State) (ii : Index), s.cdc.fatal = none →
    (∀ (b : Byte) (rest : List Byte), s.cdc.respFifo = b :: rest →
      exec (.rdResp ii) s = .next { s with cdc := { s.cdc with respFifo := rest }, readValue := some (.byte b) }) ∧
    (s.cdc.respFifo = [] →
      exec (.rdResp ii) s = .next { s with readValue := some (.byte s.cfg.emptyReadValue) })

/-- A write of the parameter register appends a byte (R135); with 16 queued the byte is dropped (R136, decision D14)
and the diagnostic recorded (log 12). -/
def Obligations.ParameterWriteAppendsOrDrops : Prop :=
  ∀ (s : State) (v : Byte), s.cdc.fatal = none →
    (s.cdc.paramFifo.length < 16 →
      exec (.wrParam v) s = .next { s with cdc := { s.cdc with paramFifo := s.cdc.paramFifo ++ [v] } }) ∧
    (16 ≤ s.cdc.paramFifo.length →
      exec (.wrParam v) s = .next { s with log := s.log ++ [.parameterOverflow v] })

/-- A read of the data port returns the byte the mode's offset and the cursor select and advances the cursor (R264);
with nothing available it returns `EMPTY_READ_VALUE` and changes nothing else (R265, decision D15). -/
def Obligations.DataReadAdvancesTheCursor : Prop :=
  ∀ (s : State) (ii : Index), s.cdc.fatal = none →
    (∀ d : SectorData, s.cdc.active = some d → s.cdc.mode &&& s.cfg.modeWholeSector = 0#8 → s.cdc.cursor < 2048 →
      ∃ b : Byte, d[24 + s.cdc.cursor]? = some b ∧
        exec (.rdData ii) s = .next { s with
          cdc := { s.cdc with cursor := s.cdc.cursor + 1 }, readValue := some (.byte b) }) ∧
    (∀ d : SectorData, s.cdc.active = some d → s.cdc.mode &&& s.cfg.modeWholeSector ≠ 0#8 → s.cdc.cursor < s.cfg.payloadWhole →
      ∃ b : Byte, d[12 + s.cdc.cursor]? = some b ∧
        exec (.rdData ii) s = .next { s with
          cdc := { s.cdc with cursor := s.cdc.cursor + 1 }, readValue := some (.byte b) }) ∧
    (s.cdc.active = none ∨ (s.cdc.mode &&& s.cfg.modeWholeSector = 0#8 ∧ 2048 ≤ s.cdc.cursor) ∨
        (s.cdc.mode &&& s.cfg.modeWholeSector ≠ 0#8 ∧ (s.cfg.payloadWhole : Nat) ≤ s.cdc.cursor) →
      exec (.rdData ii) s = .next { s with readValue := some (.byte s.cfg.emptyReadValue) })

/-- The interrupt-enable mask is stored whole and read back unchanged (R141, R142, decision D11). -/
def Obligations.InterruptEnableIsStoredAndReadBack : Prop :=
  ∀ (s : State) (v : Byte) (i : BitVec 1), s.cdc.fatal = none →
    exec (.wrIrqen v) s = .next { s with cdc := { s.cdc with irqEnable := v } } ∧
    exec (.rdIrqen i) s = .next { s with readValue := some (.byte s.cdc.irqEnable) }

/-- A read of the interrupt flag returns the front code zero-extended, or 0x00, and removes nothing (R144, decision
D11 for the upper bits). -/
def Obligations.InterruptFlagReadInspectsTheFront : Prop :=
  ∀ (s : State) (i : BitVec 1), s.cdc.fatal = none →
    (∀ (code : IrqCode) (rest : List IrqCode), s.cdc.irqFifo = code :: rest →
      exec (.rdIrqflag i) s = .next { s with readValue := some (.byte (code.setWidth 8)) }) ∧
    (s.cdc.irqFifo = [] → exec (.rdIrqflag i) s = .next { s with readValue := some (.byte 0x00#8) })

/-- An acknowledge write pops one code when a bit of `ACK_POP_MASK` is set and empties the parameter queue when a bit
of `ACK_PARAM_RESET` is, independently (R143; the pattern is the spec's decision D10). -/
def Obligations.AcknowledgePopsAtMostOneCode : Prop :=
  ∀ (s : State) (v : Byte), s.cdc.fatal = none →
    exec (.wrIrqack v) s = .next { s with cdc := { s.cdc with
      irqFifo := if v &&& s.cfg.ackPopMask ≠ 0#8 then s.cdc.irqFifo.drop 1 else s.cdc.irqFifo,
      paramFifo := if v &&& s.cfg.ackParamReset ≠ 0#8 then [] else s.cdc.paramFifo } }

/-- The request register: bit 7 set adopts the raw sector only when the active buffer is drained or absent; bit 7
clear discards the active buffer (R145, R261, decisions D33, D35). -/
def Obligations.RequestAdoptsOnlyWhenDrained : Prop :=
  ∀ (s : State) (v : Byte), s.cdc.fatal = none →
    (v.getLsbD 7 = false →
      exec (.wrReq v) s = .next { s with cdc := { s.cdc with active := none, cursor := 0 } }) ∧
    (v.getLsbD 7 = true → (s.cdc.active = none ∨ payloadLen s.cfg s.cdc ≤ s.cdc.cursor) →
      exec (.wrReq v) s = .next { s with cdc := { s.cdc with active := s.cdc.rawSector, cursor := 0 } }) ∧
    (v.getLsbD 7 = true → s.cdc.active ≠ none → s.cdc.cursor < payloadLen s.cfg s.cdc →
      exec (.wrReq v) s = .next s)

/-- The seven writes with no target change nothing of the CDC (R150); which pairs they are is the spec's decision D2,
and the log is the model's record of the diagnostic (log 12). -/
def Obligations.WritesWithNoTargetChangeNothing : Prop :=
  ∀ (s : State) (v : Byte), s.cdc.fatal = none →
    exec (.wrNop11 v) s = .next { s with log := s.log ++ [.ignoredWrite 1#2 1#2 v] } ∧
    exec (.wrNop12 v) s = .next { s with log := s.log ++ [.ignoredWrite 1#2 2#2 v] } ∧
    exec (.wrNop13 v) s = .next { s with log := s.log ++ [.ignoredWrite 1#2 3#2 v] } ∧
    exec (.wrNop22 v) s = .next { s with log := s.log ++ [.ignoredWrite 2#2 2#2 v] } ∧
    exec (.wrNop23 v) s = .next { s with log := s.log ++ [.ignoredWrite 2#2 3#2 v] } ∧
    exec (.wrNop32 v) s = .next { s with log := s.log ++ [.ignoredWrite 3#2 2#2 v] } ∧
    exec (.wrNop33 v) s = .next { s with log := s.log ++ [.ignoredWrite 3#2 3#2 v] }

/-! ### The tick -/

/-- A tick raises the line exactly when the front code's low 3 bits intersect the mask, once, with this tick's number,
and whatever the pump then does (R242, R306, decision D29); it clears `busy` (R241, decision D12, log 14). The counter
and the history are the model's fields (log 11). -/
def Obligations.TickRaisesTheLineForAnEnabledFrontCode : Prop :=
  ∀ s : State, s.cdc.fatal = none → ∃ t : State, exec .tick s = .next t ∧
    t.ticks = s.ticks + 1 ∧ t.cdc.busy = false ∧
    t.irqHistory = s.irqHistory ++
      (match s.cdc.irqFifo with
       | [] => []
       | code :: _ =>
         if (code.setWidth 8 &&& 0x07#8) &&& s.cdc.irqEnable ≠ 0#8 then
           [{ line := s.cfg.irqLineId, tick := s.ticks + 1 }]
         else [])

/-- The whole effect of a tick in which no sector is due (R240, R241, R244; decisions D12 and D16): busy cleared, the
raise of R242, and the countdown held in Stopped and Seeking, one lower in Reading (its bit the only state bit set) and
Playing (likewise). -/
def Obligations.TickWithNoSectorDue : Prop :=
  ∀ s : State, s.cdc.fatal = none → s.cfg.driveBits.wellFormed = true →
    (s.cdc.drive.getLsbD s.cfg.driveBits.reading = false → s.cdc.drive.getLsbD s.cfg.driveBits.playing = false →
      exec .tick s = .next { s with
        cdc := { s.cdc with busy := false }, ticks := s.ticks + 1,
        irqHistory := if frontEnabled s.cdc then s.irqHistory ++ [{ line := s.cfg.irqLineId, tick := s.ticks + 1 }]
          else s.irqHistory }) ∧
    (onlyState s .reading ∨ onlyState s .playing → 2 ≤ s.cdc.countdown →
      exec .tick s = .next { s with
        cdc := { s.cdc with busy := false, countdown := s.cdc.countdown - 1 }, ticks := s.ticks + 1,
        irqHistory := if frontEnabled s.cdc then s.irqHistory ++ [{ line := s.cfg.irqLineId, tick := s.ticks + 1 }]
          else s.irqHistory })

/-- The record after a tick in which a sector is due (R241, R244, R245, R246, R247): busy cleared (decision D12,
log 14), the countdown reloaded (D16, log 25), the raw buffer replaced and the position advanced for every
classification (D17, log 26), and the data-ready envelope appended, within the capacity of 16 (D14, log 17), only in
Reading, its bit the only state bit set (D5, log 21), for a Data sector (D37, log 36). Parameters and provider are
unchanged. -/
def Obligations.TickFetchesTheSectorThatIsDue : Prop :=
  ∀ s : State, s.cdc.fatal = none → s.cfg.driveBits.wellFormed = true → onlyState s .reading ∨ onlyState s .playing →
    s.cdc.countdown = 1 → s.cdc.irqFifo.length ≤ 16 → s.cdc.respFifo.length ≤ 16 →
    ∃ t : State, exec .tick s = .next t ∧ t.cfg = s.cfg ∧ t.disc = s.disc ∧ t.inbox = s.inbox ∧
      t.readValue = s.readValue ∧
      t.cdc = { s.cdc with
        busy := false, countdown := s.cfg.sectorPeriod,
        rawSector := some (readSectorAt s.disc s.cdc.readPos).bytes, readPos := s.cdc.readPos + 1,
        irqFifo :=
          if onlyState s .reading ∧ (readSectorAt s.disc s.cdc.readPos).type = .data then
            (s.cdc.irqFifo ++ [s.cfg.intDataReady]).take 16 else s.cdc.irqFifo,
        respFifo :=
          if onlyState s .reading ∧ (readSectorAt s.disc s.cdc.readPos).type = .data then
            (s.cdc.respFifo ++ [s.cdc.drive]).take 16 else s.cdc.respFifo }

/-- The line re-fires at every tick while an enabled code stays at the front (R243): `n` ticks with no host operation
between them make `n` raises, in the ticks they happened in, whatever the pump does meanwhile. -/
def Obligations.EnabledFrontCodeRefiresEveryTick : Prop :=
  ∀ (n : Nat) (s : State), s.cdc.fatal = none → s.inbox = List.replicate n (.event 0#2) → frontEnabled s.cdc = true →
    ∃ t : State, Host.Core.run Sys2Proof.core n s = .next t ∧
      t.irqHistory = s.irqHistory ++
        (List.range n).map (fun k => { line := s.cfg.irqLineId, tick := s.ticks + 1 + k })

/-- In a stretch of ticks spent in Reading or Playing a sector is fetched at the tick that `countdown` says and then at
every `SECTOR_PERIOD`-th tick, each fetch advancing the position by one (R244, R251; decision D16). -/
def Obligations.SectorIsFetchedEveryPeriod : Prop :=
  ∀ (n : Nat) (s : State), s.cdc.fatal = none → s.inbox = List.replicate n (.event 0#2) →
    s.cfg.driveBits.wellFormed = true → onlyState s .reading ∨ onlyState s .playing →
    1 ≤ s.cdc.countdown → s.cdc.countdown ≤ s.cfg.sectorPeriod →
    ∃ t : State, Host.Core.run Sys2Proof.core n s = .next t ∧ t.cdc.drive = s.cdc.drive ∧
      t.cdc.readPos = s.cdc.readPos +
        (if n < s.cdc.countdown then 0 else ((n - s.cdc.countdown) / s.cfg.sectorPeriod + 1 : Nat))

/-! ### Queues and data path -/

/-- `push`: the code, then the bytes in order, each queue cut at 16 elements and nothing already queued displaced
(R221, R222; for the code, R223 with decision D14). Nothing else of the record changes. -/
def Obligations.PushAppendsWithinTheCapacity : Prop :=
  ∀ (s : State) (code : IrqCode) (bytes : List Byte), s.cdc.irqFifo.length ≤ 16 → s.cdc.respFifo.length ≤ 16 →
    (push code bytes s).cdc = { s.cdc with
      irqFifo := (s.cdc.irqFifo ++ [code]).take 16, respFifo := (s.cdc.respFifo ++ bytes).take 16 }

/-- Reading the response register repeatedly, at an offset where the map has it, with no other operation between,
returns the bytes strictly in push order and never acknowledges an interrupt (R130, decision D3 for the register; in
the spec's map it is register 1 whatever `index` is). -/
def Obligations.ResponsesComeOutInPushOrder : Prop :=
  (∀ (k : Nat) (s : State) (a ii : Index) (h : k < s.cdc.respFifo.length), s.cdc.fatal = none →
    decodeRead s.cfg.encodings a s.cdc.index = .ok (.rdResp ii) →
    s.inbox = List.replicate (k + 1) (.memRead (s.cfg.cdromBase + a.toNat) 1) →
    ∃ t : State, Host.Core.run Sys2Proof.core (k + 1) s = .next t ∧
      t.readValue = some (.byte s.cdc.respFifo[k]) ∧ t.cdc.respFifo = s.cdc.respFifo.drop (k + 1) ∧
      t.cdc.irqFifo = s.cdc.irqFifo) ∧
  ∀ index : Index, decodeRead specEncodings 1#2 index = .ok (.rdResp index)

/-- The word read is four byte reads in sequence, least-significant byte first, in one operation (R267, decisions D30
and D41). -/
def Obligations.WordReadIsFourByteReads : Prop :=
  ∀ (s : State) (ii : Index), s.cdc.fatal = none →
    ∃ (s1 s2 s3 s4 : State) (b0 b1 b2 b3 : Byte),
      exec (.rdData ii) s = .next s1 ∧ s1.readValue = some (.byte b0) ∧
      exec (.rdData ii) s1 = .next s2 ∧ s2.readValue = some (.byte b1) ∧
      exec (.rdData ii) s2 = .next s3 ∧ s3.readValue = some (.byte b2) ∧
      exec (.rdData ii) s3 = .next s4 ∧ s4.readValue = some (.byte b3) ∧
      exec .rdDataWord s = .next { s4 with readValue := some (.word (b3 ++ b2 ++ b1 ++ b0)) }

/-- "The active buffer is never changed by the pump or by a command" and "is replaced only when fully drained or
explicitly cleared, never mid-read"; "The only writers of `active` are rule R261 and reset; the only writers of
`cursor` are rules R261, R264 and reset" (R268). R261 is the request register, cleared by a write with bit 7 clear and
adopting with bit 7 set (decision D35) when no data is available (R263, decision D33, log 34; the whole-sector length
is decision D9, log 24); R264 is a data read, by byte or by word. -/
def Obligations.ActiveBufferHasOnlyItsWriters : Prop :=
  ∀ (i : Instr) (s t : State), exec i s = .next t →
    (t.cdc.active ≠ s.cdc.active →
      i = .reset ∨ ∃ v, i = .wrReq v ∧
        ((v.getLsbD 7 = false ∧ t.cdc.active = none) ∨
          (v.getLsbD 7 = true ∧ t.cdc.active = s.cdc.rawSector ∧
            (s.cdc.active = none ∨ payloadLen s.cfg s.cdc ≤ s.cdc.cursor)))) ∧
    (t.cdc.cursor ≠ s.cdc.cursor → i = .reset ∨ i = .rdDataWord ∨ (∃ v, i = .wrReq v) ∨ ∃ ii, i = .rdData ii)

/-- Which operations write the other latches (R21 to R24, R33, R34, R36 to R40, R151, R178). A command counts also as
the byte written to the command register, its opcode the configured one (decision D7, log 23). `busy` is set by a
command that completes and cleared by a tick (R23, R241; decision D12, log 14), and the ADPCM flag is written by
nothing (R24; decision D12, log 15). -/
def Obligations.EachLatchHasOnlyItsWriters : Prop :=
  ∀ (i : Instr) (s t : State) (o : Opcodes), exec i s = .next t → i ≠ .reset → o = s.cfg.encodings.opcodes →
    (t.cdc.index ≠ s.cdc.index → ∃ ii v, i = .wrIndex ii v) ∧
    (t.cdc.irqEnable ≠ s.cdc.irqEnable → ∃ v, i = .wrIrqen v) ∧
    t.cdc.adpcmEmpty = s.cdc.adpcmEmpty ∧
    (t.cdc.busy ≠ s.cdc.busy → (i = .tick ∧ t.cdc.busy = false) ∨
      (t.cdc.busy = true ∧ ((∃ v, i = .wrCmd v) ∨ i ∈ [.getstat, .setloc, .play, .readN, .motorOn, .stop, .pause] ∨
        i ∈ [.init, .mute, .demute, .setmode, .getparam, .getTN, .getTD, .seekL, .test, .getID, .readS] ∨
        ∃ op, i = .unknown op))) ∧
    (t.cdc.drive ≠ s.cdc.drive →
      i ∈ [.play, .readN, .motorOn, .stop, .pause, .init, .seekL, .readS] ∨
      ∃ op, i = .wrCmd op ∧ op ∈ [o.play, o.readN, o.motorOn, o.stop, o.pause, o.init, o.seekL, o.readS]) ∧
    (t.cdc.mode ≠ s.cdc.mode → i = .setmode ∨ i = .wrCmd o.setmode) ∧
    (t.cdc.mute ≠ s.cdc.mute → i = .mute ∨ i = .demute ∨ i = .wrCmd o.mute ∨ i = .wrCmd o.demute) ∧
    (t.cdc.seekTarget ≠ s.cdc.seekTarget → i = .setloc ∨ i = .wrCmd o.setloc) ∧
    (t.cdc.readPos ≠ s.cdc.readPos →
      (i = .tick ∧ t.cdc.readPos = s.cdc.readPos + 1) ∨
      (t.cdc.readPos = s.cdc.seekTarget ∧
        (i ∈ [.play, .readN, .seekL, .readS] ∨
          ∃ op, i = .wrCmd op ∧ op ∈ [o.play, o.readN, o.seekL, o.readS]))) ∧
    (t.cdc.countdown ≠ s.cdc.countdown → i = .tick) ∧
    (t.cdc.rawSector ≠ s.cdc.rawSector → i = .tick)

/-! ### Positions -/

/-- The conversions as their rules write them (R280 with decision D19, R282): high nibble the tens digit; the linear
address on unbounded integers with a signed subtraction. -/
def Obligations.ConversionsFollowTheirFormulas : Prop :=
  (∀ b : Byte, bcdDec b = (b.extractLsb' 4 4).toNat * 10 + (b.extractLsb' 0 4).toNat) ∧
  (∀ n : Nat, (bcdEnc n).extractLsb' 4 4 = BitVec.ofNat 4 (n / 10) ∧ ((bcdEnc n).extractLsb' 0 4).toNat = n % 10) ∧
  (∀ m s f : Nat, toLba { m := m, s := s, f := f } = ((m * 60 + s) * 75 + f : Int) - 150) ∧
  (∀ n : Nat, n ≤ 99 → bcdDec (bcdEnc n) = n) ∧
  (∀ b : Byte, b.toNat / 16 ≤ 9 → b.toNat % 16 ≤ 9 → bcdEnc (bcdDec b) = b)

/-- `from_lba` and `to_lba` are inverse on the positions with seconds below 60 and frames below 75, and `from_lba` is
defined exactly from -150 on (R284, R285). -/
def Obligations.PositionsRoundTrip : Prop :=
  (∀ l : Int, -150 ≤ l → ∃ p : Msf, fromLba l = some p ∧ p.s < 60 ∧ p.f < 75 ∧ toLba p = l) ∧
  (∀ p : Msf, p.s < 60 → p.f < 75 → fromLba (toLba p) = some p) ∧
  (∀ l : Int, l < -150 → fromLba l = none)

/-! ### Reset, invariants, whole-machine rules -/

/-- What reset leaves, from any state, a faulted one too (R340), and under any configuration: the three queues empty
(R226), the sector buffers none and no fatal (R341), every other field its configured reset value, and nothing outside
`cdc` touched. The spec's values are those of R341 (decision D28, log 9), `countdown` at its reload value; the
state after creation holds them and the spec's other defaults (R7), waiting for its first operation. -/
def Obligations.ResetLeavesTheResetRecord : Prop :=
  (∀ (s : State) (v : ResetValues), v = s.cfg.resetValues →
    exec .reset s = .next { s with cdc :=
      { index := v.index, irqEnable := v.irqEnable, busy := v.busy, adpcmEmpty := v.adpcmEmpty,
        paramFifo := [], respFifo := [], irqFifo := [], drive := v.drive, mode := v.mode,
        mute := v.mute, seekTarget := v.seekTarget, readPos := v.readPos, countdown := v.countdown,
        rawSector := none, active := none, cursor := v.cursor, fatal := none } }) ∧
  State.reset.cdc =
    { index := 0#2, irqEnable := 0#8, busy := false, adpcmEmpty := false, paramFifo := [], respFifo := [],
      irqFifo := [], drive := 0#8, mode := 0#8, mute := false, seekTarget := 0, readPos := 0,
      countdown := State.reset.cfg.sectorPeriod, rawSector := none, active := none, cursor := 0, fatal := none } ∧
  exec .reset State.reset = .next State.reset ∧ State.reset.inbox = [] ∧ State.reset.cfg = specDefaults ∧
  specDefaults.statBits =
    { index := 0, adpcm := 2, prmEmpty := 3, prmWritable := 4, rspNonempty := 5, dataNonempty := 6, busy := 7 } ∧
  specDefaults.driveBits =
    { error := 0, motorOn := 1, seekError := 2, idError := 3, shellOpen := 4, reading := 5, seeking := 6,
      playing := 7 } ∧
  (specDefaults.payloadWhole : Nat) = 2340 ∧ specDefaults.encodings = specEncodings

/-- The invariants of R47, with legal parameters and a provider in canonical form, hold at reset. -/
def Obligations.ResetMeetsTheInvariant : Prop := State.reset.Inv

/-- From every state that meets the invariants of R47 a step leads to one that meets them. -/
def Obligations.StepKeepsTheInvariant : Prop :=
  ∀ s t : State, s.Inv → step s = .next t → t.Inv

/-- No step changes the parameters or the provider, which "is read-only from this subsystem's perspective" (R76, R44),
reset included, and a step takes exactly the front operation from the inbox (R72). -/
def Obligations.StepKeepsParametersAndProvider : Prop :=
  ∀ s t : State, step s = .next t → t.cfg = s.cfg ∧ t.disc = s.disc ∧ t.inbox = s.inbox.drop 1

/-- No rule reads the mute flag (R36), and nothing reads what has gone out (R43, R315): two states that differ only
there take the same operation to the same end; where it goes on, every other field of the next states agrees, what the
operation answers, raises and logs is the same in both, and what it makes of the mute flag does not depend on the flag.
What has gone out is held in the model's own fields (log 10, 11, 12). -/
def Obligations.MuteAndOutputsInfluenceNothing : Prop :=
  ∀ (i : Instr) (s s' : State) (m : Bool) (r : Option ReadValue) (h : List IrqEvent) (l : List LogEvent),
    s' = { s with cdc := { s.cdc with mute := m }, readValue := r, irqHistory := h, log := l } →
    (∀ f, exec i s = .fault f → exec i s' = .fault f) ∧
    (∀ t, exec i s = .next t →
      ∃ (t' : State) (answer : Option ReadValue) (raises : List IrqEvent) (notes : List LogEvent) (set : Option Bool),
        exec i s' = .next t' ∧
        t'.cdc = { t.cdc with mute := t'.cdc.mute } ∧ t.cdc.mute = set.getD s.cdc.mute ∧ t'.cdc.mute = set.getD m ∧
        t'.cfg = t.cfg ∧ t'.disc = t.disc ∧ t'.inbox = t.inbox ∧ t'.ticks = t.ticks ∧
        t.readValue = answer.or s.readValue ∧ t'.readValue = answer.or r ∧
        t.irqHistory = s.irqHistory ++ raises ∧ t'.irqHistory = h ++ raises ∧
        t.log = s.log ++ notes ∧ t'.log = l ++ notes)
end

