-- ==== Sys2Proof/Laws/Bits.lean ====
section
/-! SUPPORT. The bits of the status register and of the drive status byte, for every layout. -/

namespace Sys2Proof.Machine

/-! ### One bit -/

theorem getLsbD_flagBit (b : Bool) (p : Fin 8) (k : Nat) : (flagBit b p).getLsbD k = (b && decide (k = p.val)) := by
  by_cases hk : k < 8
  · have h := (by decide : ∀ (b : Bool) (p k : Fin 8), (flagBit b p).getLsbD k = (b && decide (k.val = p.val)))
      b p ⟨k, hk⟩
    exact h
  · have hp := p.isLt
    have hne : k ≠ p.val := by omega
    simp [BitVec.getLsbD_of_ge _ _ (by omega : 8 ≤ k), hne]

theorem getLsbD_bitMask (p : Fin 8) (k : Nat) : (bitMask p).getLsbD k = decide (k = p.val) := by
  simp [bitMask, getLsbD_flagBit]

theorem bitMask_and_bitMask {p q : Fin 8} (h : p ≠ q) : bitMask p &&& bitMask q = 0#8 := by
  revert p q
  decide

/-! ### The drive status byte -/

theorem getLsbD_stateMask (b : DriveBits) (k : Nat) :
    (stateMask b).getLsbD k = (decide (k = b.reading.val) || decide (k = b.seeking.val) || decide (k = b.playing.val)) := by
  simp [stateMask, getLsbD_bitMask]

/-- Setting a tag: the state bits become the tag's, every other bit is kept. -/
theorem getLsbD_setTag (b : DriveBits) (tag : StateTag) (drive : Byte) {k : Nat} (hk : k < 8) :
    (setTag b tag drive).getLsbD k =
      (drive.getLsbD k && !(stateMask b).getLsbD k || (tagBit b tag).getLsbD k) := by
  simp [setTag, hk]

theorem DriveBits.state_bits_distinct {b : DriveBits} (h : b.wellFormed = true) :
    b.reading ≠ b.seeking ∧ b.reading ≠ b.playing ∧ b.seeking ≠ b.playing := by
  simp [DriveBits.wellFormed] at h
  exact ⟨h.2.2.2.2.2.1.1, h.2.2.2.2.2.1.2, h.2.2.2.2.2.2⟩

/-- The state bits of a drive byte whose only state bit is the tag's. -/
theorem getLsbD_of_onlyTag {b : DriveBits} (h : b.wellFormed = true) {drive : Byte} {tag : StateTag}
    (hd : drive &&& stateMask b = tagBit b tag) :
    drive.getLsbD b.reading = decide (tag = .reading) ∧ drive.getLsbD b.seeking = decide (tag = .seeking) ∧
      drive.getLsbD b.playing = decide (tag = .playing) := by
  obtain ⟨h1, h2, h3⟩ := DriveBits.state_bits_distinct h
  have hr := congrArg (BitVec.getLsbD · b.reading.val) hd
  have hs := congrArg (BitVec.getLsbD · b.seeking.val) hd
  have hp := congrArg (BitVec.getLsbD · b.playing.val) hd
  simp only [BitVec.getLsbD_and, getLsbD_stateMask, decide_true, Bool.true_or, Bool.or_true, Bool.and_true] at hr hs hp
  rw [hr, hs, hp]
  cases tag <;>
    simp [-BitVec.getLsbD_eq_getElem, tagBit, getLsbD_bitMask, Fin.val_inj, h1, h2, h3, h1.symm, h2.symm, h3.symm]

/-- A tag whose bit is the only state bit set is the state. -/
theorem stateTag_of_onlyTag {b : DriveBits} (h : b.wellFormed = true) {drive : Byte} {tag : StateTag}
    (hd : drive &&& stateMask b = tagBit b tag) : stateTag b drive = tag := by
  obtain ⟨hr, hs, hp⟩ := getLsbD_of_onlyTag h hd
  rw [stateTag, hr, hs, hp]
  cases tag <;> rfl

/-- `set_state(tag)` leaves the tag's bit as the only state bit. -/
theorem setTag_onlyTag {b : DriveBits} (tag : StateTag) (drive : Byte) :
    setTag b tag drive &&& stateMask b = tagBit b tag := by
  apply BitVec.eq_of_getLsbD_eq
  intro k hk
  rw [BitVec.getLsbD_and, getLsbD_setTag b tag drive hk]
  cases tag <;> simp only [tagBit, getLsbD_bitMask, getLsbD_stateMask, BitVec.getLsbD_zero] <;>
    cases drive.getLsbD k <;> cases decide (k = b.reading.val) <;> cases decide (k = b.seeking.val) <;>
    cases decide (k = b.playing.val) <;> rfl

theorem stateTag_setTag {b : DriveBits} (h : b.wellFormed = true) (tag : StateTag) (drive : Byte) :
    stateTag b (setTag b tag drive) = tag := stateTag_of_onlyTag h (setTag_onlyTag tag drive)

/-! ### The status register -/

/-- Every bit of the status register, as the layout places the flags and the index. -/
theorem getLsbD_stat (cfg : Config) (c : Cdc) {k : Nat} (hk : k < 8) :
    (stat cfg c).getLsbD k =
      (c.busy && decide (k = cfg.statBits.busy.val)
        || dataAvailable cfg c && decide (k = cfg.statBits.dataNonempty.val)
        || decide (c.respFifo.length > 0) && decide (k = cfg.statBits.rspNonempty.val)
        || decide (c.paramFifo.length < fifoCap) && decide (k = cfg.statBits.prmWritable.val)
        || decide (c.paramFifo.length = 0) && decide (k = cfg.statBits.prmEmpty.val)
        || c.adpcmEmpty && decide (k = cfg.statBits.adpcm.val)
        || decide (cfg.statBits.index.val ≤ k) && c.index.getLsbD (k - cfg.statBits.index.val)) := by
  simp only [stat, BitVec.getLsbD_or, getLsbD_flagBit, BitVec.getLsbD_shiftLeft, BitVec.getLsbD_setWidth]
  have hn : (!decide (k < cfg.statBits.index.val)) = decide (cfg.statBits.index.val ≤ k) := by
    rw [← decide_not, decide_eq_decide, Nat.not_lt]
  simp [hk, show k - cfg.statBits.index.val < 8 by omega, hn]

end Sys2Proof.Machine
end

