-- ==== Sys2Proof/Laws/Decode.lean ====
section
/-! SUPPORT. What the opcode lookup and the register map's searches can answer, for every configuration. -/

namespace Sys2Proof

/-! ### Opcodes -/

theorem mem_commandNames (c : CommandName) : c ∈ commandNames := by
  cases c <;> decide

/-- A lookup that finds a command finds one with that opcode. -/
theorem of_lookupCommand {o : Opcodes} {op : Byte} {c : CommandName} (h : lookupCommand o op = some c) : o.of c = op := by
  simpa using List.find?_some h

theorem of_injective {o : Opcodes} (h : o.wellFormed = true) {c d : CommandName} (hcd : o.of c = o.of d) : c = d := by
  have hn : (commandNames.map o.of).Nodup := by simpa [Opcodes.wellFormed] using h
  exact List.inj_on_of_nodup_map hn (mem_commandNames c) (mem_commandNames d) hcd

/-- With no opcode shared, the lookup of a command's opcode finds it. -/
theorem lookupCommand_of {o : Opcodes} (h : o.wellFormed = true) (c : CommandName) :
    lookupCommand o (o.of c) = some c := by
  cases hl : lookupCommand o (o.of c) with
  | none => simpa using List.find?_eq_none.mp hl c (mem_commandNames c)
  | some d => rw [of_injective h (of_lookupCommand hl)]

/-! ### The register map -/

theorem mem_mappedPairs : ∀ {aa ii : Index}, aa ≠ 0#2 → (aa, ii) ∈ mappedPairs := by decide

variable {e : Encodings} {aa ii : Index}

theorem writeRow_of_zero : e.writeRow 0#2 ii = none := rfl

theorem readRow_of_zero : e.readRow 0#2 ii = none := rfl

/-- A write of registers 1 to 3 has a row. -/
theorem writeRow_isSome (h : aa ≠ 0#2) : ∃ row, e.writeRow aa ii = some row := by
  have ha := (by decide : ∀ aa : Index, aa = 0#2 ∨ aa = 1#2 ∨ aa = 2#2 ∨ aa = 3#2) aa
  rcases ha with rfl | rfl | rfl | rfl
  · exact absurd rfl h
  all_goals exact ⟨_, rfl⟩

/-- A pair that the search finds has the row. -/
theorem writeRow_of_writePair {row : WriteRow} {p : Index × Index} (h : e.writePair row = some p) :
    e.writeRow p.1 p.2 = some row := by
  simpa using List.find?_some h

theorem readRow_of_readPair {row : ReadRow} {p : Index × Index} (h : e.readPair row = some p) :
    e.readRow p.1 p.2 = some row := by
  simpa using List.find?_some h

/-- With no row shared, the search for the row of a pair finds the pair. -/
theorem writePair_of_writeRow {row : WriteRow} (h : OneToOne e.writeRow) (hr : e.writeRow aa ii = some row) :
    e.writePair row = some (aa, ii) := by
  have ha : aa ≠ 0#2 := by rintro rfl; simp [writeRow_of_zero] at hr
  cases hp : e.writePair row with
  | none => exact absurd (List.find?_eq_none.mp hp (aa, ii) (mem_mappedPairs ha)) (by simp [hr])
  | some p =>
    obtain ⟨h1, h2⟩ := h aa ii p.1 p.2 (by simp [hr]) (by rw [hr, writeRow_of_writePair hp])
    rw [h1, h2]

theorem readPair_of_readRow {row : ReadRow} (h : OneToOne e.readRow) (hr : e.readRow aa ii = some row) :
    e.readPair row = some (aa, ii) := by
  have ha : aa ≠ 0#2 := by rintro rfl; simp [readRow_of_zero] at hr
  cases hp : e.readPair row with
  | none => exact absurd (List.find?_eq_none.mp hp (aa, ii) (mem_mappedPairs ha)) (by simp [hr])
  | some p =>
    obtain ⟨h1, h2⟩ := h aa ii p.1 p.2 (by simp [hr]) (by rw [hr, readRow_of_readPair hp])
    rw [h1, h2]

end Sys2Proof
end

