-- ==== Sys2Proof/Laws/State.lean ====
section
/-! SUPPORT. The fields of the state after each update: one lemma per field per update. -/

namespace Sys2Proof.Machine

variable (s : State) (f g : Cdc → Cdc) (v : ReadValue) (e : LogEvent) (k : FatalKind)

@[simp] theorem onCdc_cdc : (s.onCdc f).cdc = f s.cdc := rfl
@[simp] theorem onCdc_cfg : (s.onCdc f).cfg = s.cfg := rfl
@[simp] theorem onCdc_disc : (s.onCdc f).disc = s.disc := rfl
@[simp] theorem onCdc_inbox : (s.onCdc f).inbox = s.inbox := rfl
@[simp] theorem onCdc_readValue : (s.onCdc f).readValue = s.readValue := rfl
@[simp] theorem onCdc_ticks : (s.onCdc f).ticks = s.ticks := rfl
@[simp] theorem onCdc_irqHistory : (s.onCdc f).irqHistory = s.irqHistory := rfl
@[simp] theorem onCdc_log : (s.onCdc f).log = s.log := rfl
@[simp] theorem onCdc_onCdc : (s.onCdc f).onCdc g = s.onCdc fun c => g (f c) := rfl

@[simp] theorem answer_cdc : (s.answer v).cdc = s.cdc := rfl
@[simp] theorem answer_cfg : (s.answer v).cfg = s.cfg := rfl
@[simp] theorem answer_disc : (s.answer v).disc = s.disc := rfl
@[simp] theorem answer_inbox : (s.answer v).inbox = s.inbox := rfl
@[simp] theorem answer_readValue : (s.answer v).readValue = some v := rfl
@[simp] theorem answer_ticks : (s.answer v).ticks = s.ticks := rfl
@[simp] theorem answer_irqHistory : (s.answer v).irqHistory = s.irqHistory := rfl
@[simp] theorem answer_log : (s.answer v).log = s.log := rfl

@[simp] theorem note_cdc : (s.note e).cdc = s.cdc := rfl
@[simp] theorem note_cfg : (s.note e).cfg = s.cfg := rfl
@[simp] theorem note_disc : (s.note e).disc = s.disc := rfl
@[simp] theorem note_inbox : (s.note e).inbox = s.inbox := rfl
@[simp] theorem note_readValue : (s.note e).readValue = s.readValue := rfl
@[simp] theorem note_ticks : (s.note e).ticks = s.ticks := rfl
@[simp] theorem note_irqHistory : (s.note e).irqHistory = s.irqHistory := rfl
@[simp] theorem note_log : (s.note e).log = s.log ++ [e] := rfl

@[simp] theorem raiseInterrupt_cdc : s.raiseInterrupt.cdc = s.cdc := rfl
@[simp] theorem raiseInterrupt_cfg : s.raiseInterrupt.cfg = s.cfg := rfl
@[simp] theorem raiseInterrupt_disc : s.raiseInterrupt.disc = s.disc := rfl
@[simp] theorem raiseInterrupt_inbox : s.raiseInterrupt.inbox = s.inbox := rfl
@[simp] theorem raiseInterrupt_readValue : s.raiseInterrupt.readValue = s.readValue := rfl
@[simp] theorem raiseInterrupt_ticks : s.raiseInterrupt.ticks = s.ticks := rfl
@[simp] theorem raiseInterrupt_irqHistory :
    s.raiseInterrupt.irqHistory = s.irqHistory ++ [{ line := s.cfg.irqLineId, tick := s.ticks }] := rfl
@[simp] theorem raiseInterrupt_log : s.raiseInterrupt.log = s.log := rfl

@[simp] theorem raiseFatal_cdc : (s.raiseFatal k).cdc = { s.cdc with fatal := some k } := rfl
@[simp] theorem raiseFatal_cfg : (s.raiseFatal k).cfg = s.cfg := rfl
@[simp] theorem raiseFatal_disc : (s.raiseFatal k).disc = s.disc := rfl
@[simp] theorem raiseFatal_inbox : (s.raiseFatal k).inbox = s.inbox := rfl
@[simp] theorem raiseFatal_readValue : (s.raiseFatal k).readValue = s.readValue := rfl
@[simp] theorem raiseFatal_ticks : (s.raiseFatal k).ticks = s.ticks := rfl
@[simp] theorem raiseFatal_irqHistory : (s.raiseFatal k).irqHistory = s.irqHistory := rfl
@[simp] theorem raiseFatal_log : (s.raiseFatal k).log = s.log := rfl

@[simp] theorem resetCdc_cdc : s.resetCdc.cdc = Cdc.reset s.cfg := rfl
/-- The `Reset()` row of R226. -/
@[simp] theorem reset_paramFifo (cfg : Config) : (Cdc.reset cfg).paramFifo = [] := rfl
@[simp] theorem reset_respFifo (cfg : Config) : (Cdc.reset cfg).respFifo = [] := rfl
@[simp] theorem reset_irqFifo (cfg : Config) : (Cdc.reset cfg).irqFifo = [] := rfl
@[simp] theorem reset_rawSector (cfg : Config) : (Cdc.reset cfg).rawSector = none := rfl
@[simp] theorem reset_active (cfg : Config) : (Cdc.reset cfg).active = none := rfl
@[simp] theorem reset_fatal (cfg : Config) : (Cdc.reset cfg).fatal = none := rfl
@[simp] theorem resetCdc_cfg : s.resetCdc.cfg = s.cfg := rfl
@[simp] theorem resetCdc_disc : s.resetCdc.disc = s.disc := rfl
@[simp] theorem resetCdc_inbox : s.resetCdc.inbox = s.inbox := rfl
@[simp] theorem resetCdc_readValue : s.resetCdc.readValue = s.readValue := rfl
@[simp] theorem resetCdc_ticks : s.resetCdc.ticks = s.ticks := rfl
@[simp] theorem resetCdc_irqHistory : s.resetCdc.irqHistory = s.irqHistory := rfl
@[simp] theorem resetCdc_log : s.resetCdc.log = s.log := rfl

end Sys2Proof.Machine
end

