-- ==== Sys2Proof/Laws/Ops.lean ====
section
/-! SUPPORT. What each shared operation can do, said once. -/

namespace Sys2Proof.Machine

/-! ### The guard -/

theorem operate_of_clear {s : State} (h : s.cdc.fatal = none) (f : State → State) : operate f s = .next (f s) := by
  simp [operate, h]

theorem operate_of_latched {s : State} {k : FatalKind} (h : s.cdc.fatal = some k) (f : State → State) :
    operate f s = .fault (.noStep k) := by
  simp [operate, h]

/-- All an operation can do: it goes on only from a state with no fatal, to the state its body gives. -/
theorem operate_eq_next {f : State → State} {s t : State} :
    operate f s = .next t ↔ s.cdc.fatal = none ∧ t = f s := by
  unfold operate
  split <;> simp_all [eq_comm]

theorem operate_ne_refused (f : State → State) (s : State) (r : Refusal) : operate f s ≠ .refused r := by
  unfold operate
  split <;> simp

/-! ### The queues -/

@[simp] theorem pushCode_cfg (code : IrqCode) (s : State) : (pushCode code s).cfg = s.cfg := by
  unfold pushCode; split <;> rfl
@[simp] theorem pushCode_disc (code : IrqCode) (s : State) : (pushCode code s).disc = s.disc := by
  unfold pushCode; split <;> rfl
@[simp] theorem pushCode_inbox (code : IrqCode) (s : State) : (pushCode code s).inbox = s.inbox := by
  unfold pushCode; split <;> rfl
@[simp] theorem pushCode_readValue (code : IrqCode) (s : State) : (pushCode code s).readValue = s.readValue := by
  unfold pushCode; split <;> rfl
@[simp] theorem pushCode_ticks (code : IrqCode) (s : State) : (pushCode code s).ticks = s.ticks := by
  unfold pushCode; split <;> rfl
@[simp] theorem pushCode_irqHistory (code : IrqCode) (s : State) : (pushCode code s).irqHistory = s.irqHistory := by
  unfold pushCode; split <;> rfl

@[simp] theorem pushByte_cfg (s : State) (b : Byte) : (pushByte s b).cfg = s.cfg := by
  unfold pushByte; split <;> rfl
@[simp] theorem pushByte_disc (s : State) (b : Byte) : (pushByte s b).disc = s.disc := by
  unfold pushByte; split <;> rfl
@[simp] theorem pushByte_inbox (s : State) (b : Byte) : (pushByte s b).inbox = s.inbox := by
  unfold pushByte; split <;> rfl
@[simp] theorem pushByte_readValue (s : State) (b : Byte) : (pushByte s b).readValue = s.readValue := by
  unfold pushByte; split <;> rfl
@[simp] theorem pushByte_ticks (s : State) (b : Byte) : (pushByte s b).ticks = s.ticks := by
  unfold pushByte; split <;> rfl
@[simp] theorem pushByte_irqHistory (s : State) (b : Byte) : (pushByte s b).irqHistory = s.irqHistory := by
  unfold pushByte; split <;> rfl

/-- A property of states that pushing one byte keeps is kept by pushing them all. -/
theorem foldl_pushByte_keeps {α : Type} (f : State → α) (h : ∀ s b, f (pushByte s b) = f s) (bytes : List Byte)
    (s : State) : f (bytes.foldl pushByte s) = f s := by
  induction bytes generalizing s with
  | nil => rfl
  | cons b bs ih => rw [List.foldl_cons, ih, h]

variable (code : IrqCode) (bytes : List Byte) (s : State)

@[simp] theorem push_cfg : (push code bytes s).cfg = s.cfg := by
  rw [push, foldl_pushByte_keeps State.cfg pushByte_cfg, pushCode_cfg]
@[simp] theorem push_disc : (push code bytes s).disc = s.disc := by
  rw [push, foldl_pushByte_keeps State.disc pushByte_disc, pushCode_disc]
@[simp] theorem push_inbox : (push code bytes s).inbox = s.inbox := by
  rw [push, foldl_pushByte_keeps State.inbox pushByte_inbox, pushCode_inbox]
@[simp] theorem push_readValue : (push code bytes s).readValue = s.readValue := by
  rw [push, foldl_pushByte_keeps State.readValue pushByte_readValue, pushCode_readValue]
@[simp] theorem push_ticks : (push code bytes s).ticks = s.ticks := by
  rw [push, foldl_pushByte_keeps State.ticks pushByte_ticks, pushCode_ticks]
@[simp] theorem push_irqHistory : (push code bytes s).irqHistory = s.irqHistory := by
  rw [push, foldl_pushByte_keeps State.irqHistory pushByte_irqHistory, pushCode_irqHistory]

theorem pushByte_fits {s : State} (b : Byte) (h : s.cdc.respFifo.length < fifoCap) :
    pushByte s b = s.onCdc fun c => { c with respFifo := c.respFifo ++ [b] } := by
  simp [pushByte, h]

theorem foldl_pushByte_fits (bytes : List Byte) (s : State) (h : s.cdc.respFifo.length + bytes.length ≤ fifoCap) :
    bytes.foldl pushByte s = s.onCdc fun c => { c with respFifo := c.respFifo ++ bytes } := by
  induction bytes generalizing s with
  | nil => simp [State.onCdc]
  | cons b bs ih =>
    rw [List.length_cons] at h
    rw [List.foldl_cons, pushByte_fits b (by omega), ih _ (by simp; omega)]
    simp [State.onCdc]

/-- A push that finds room for everything changes the two queues and nothing else. -/
theorem push_fits {code : IrqCode} {bytes : List Byte} {s : State} (hi : s.cdc.irqFifo.length < fifoCap)
    (hr : s.cdc.respFifo.length + bytes.length ≤ fifoCap) :
    push code bytes s =
      s.onCdc fun c => { c with irqFifo := c.irqFifo ++ [code], respFifo := c.respFifo ++ bytes } := by
  rw [push, pushCode, if_pos hi, foldl_pushByte_fits _ _ (by simpa using hr)]
  rfl

theorem pushAck_fits {s : State} (hi : s.cdc.irqFifo.length < fifoCap) (hr : s.cdc.respFifo.length < fifoCap) :
    pushAck s = s.onCdc fun c =>
      { c with irqFifo := c.irqFifo ++ [s.cfg.intAck], respFifo := c.respFifo ++ [c.drive] } := by
  rw [pushAck, push_fits hi (by simpa using hr)]
  rfl

theorem pushDone_fits {s : State} (hi : s.cdc.irqFifo.length < fifoCap) (hr : s.cdc.respFifo.length < fifoCap) :
    pushDone s = s.onCdc fun c =>
      { c with irqFifo := c.irqFifo ++ [s.cfg.intDone], respFifo := c.respFifo ++ [c.drive] } := by
  rw [pushDone, push_fits hi (by simpa using hr)]
  rfl

theorem pushCode_cases :
    (s.cdc.irqFifo.length < fifoCap ∧ pushCode code s = s.onCdc fun c => { c with irqFifo := c.irqFifo ++ [code] }) ∨
      (fifoCap ≤ s.cdc.irqFifo.length ∧ pushCode code s = s.note (.interruptOverflow code)) := by
  by_cases h : s.cdc.irqFifo.length < fifoCap
  · exact .inl ⟨h, by simp [pushCode, h]⟩
  · exact .inr ⟨by omega, by simp [pushCode, h]⟩

theorem pushByte_cases (b : Byte) :
    (s.cdc.respFifo.length < fifoCap ∧ pushByte s b = s.onCdc fun c => { c with respFifo := c.respFifo ++ [b] }) ∨
      (fifoCap ≤ s.cdc.respFifo.length ∧ pushByte s b = s.note (.responseOverflow b)) := by
  by_cases h : s.cdc.respFifo.length < fifoCap
  · exact .inl ⟨h, by simp [pushByte, h]⟩
  · exact .inr ⟨by omega, by simp [pushByte, h]⟩

/-- A property of states that appending a code and appending a byte both keep is kept by a push. -/
theorem push_keeps {α : Type} (f : State → α) (hc : ∀ s code, f (pushCode code s) = f s)
    (hb : ∀ s b, f (pushByte s b) = f s) : f (push code bytes s) = f s := by
  rw [push, foldl_pushByte_keeps f hb, hc]

/-- All a push can do to the record, full queues included: only the two queues change. -/
theorem push_cdc_frame : (push code bytes s).cdc = { s.cdc with
    irqFifo := (push code bytes s).cdc.irqFifo, respFifo := (push code bytes s).cdc.respFifo } := by
  have h := push_keeps code bytes s (fun u => { u.cdc with irqFifo := [], respFifo := [] })
    (fun u c => by rcases pushCode_cases c u with ⟨-, e⟩ | ⟨-, e⟩ <;> rw [e] <;> rfl)
    (fun u b => by rcases pushByte_cases u b with ⟨-, e⟩ | ⟨-, e⟩ <;> rw [e] <;> rfl)
  simp only [Cdc.mk.injEq] at h
  cases hp : (push code bytes s).cdc
  simp_all

theorem pushParam_cases (b : Byte) :
    (s.cdc.paramFifo.length < fifoCap ∧
        pushParam b s = s.onCdc fun c => { c with paramFifo := c.paramFifo ++ [b] }) ∨
      (fifoCap ≤ s.cdc.paramFifo.length ∧ pushParam b s = s.note (.parameterOverflow b)) := by
  by_cases h : s.cdc.paramFifo.length < fifoCap
  · exact .inl ⟨h, by simp [pushParam, h]⟩
  · exact .inr ⟨by omega, by simp [pushParam, h]⟩

/-! ### The data path -/

/-- All a request can do: nothing, adopt the raw sector, or discard the active buffer. -/
theorem request_cases (b : Bool) :
    (b = true ∧ dataAvailable s.cfg s.cdc = true ∧ request b s = s) ∨
      (b = true ∧ dataAvailable s.cfg s.cdc = false ∧
        request b s = s.onCdc fun c => { c with active := c.rawSector, cursor := 0 }) ∨
      (b = false ∧ request b s = s.onCdc fun c => { c with active := none, cursor := 0 }) := by
  cases b <;> cases h : dataAvailable s.cfg s.cdc <;> simp [request, h]

/-- All a data read can do to the record: move the cursor by one while data is available. -/
theorem dataAdvance_cases (cfg : Config) (c : Cdc) :
    (dataAvailable cfg c = true ∧ dataAdvance cfg c = { c with cursor := c.cursor + 1 }) ∨
      (dataAvailable cfg c = false ∧ dataAdvance cfg c = c) := by
  cases h : dataAvailable cfg c <;> simp [dataAdvance, h]

/-! ### Parameters -/

theorem popParam_nil {s : State} (h : s.cdc.paramFifo = []) (k : Byte → State → State) :
    popParam k s = s.raiseFatal .paramStarvation := by
  simp [popParam, h]

theorem popParam_cons {s : State} {b : Byte} {rest : List Byte} (h : s.cdc.paramFifo = b :: rest)
    (k : Byte → State → State) : popParam k s = k b (s.onCdc fun c => { c with paramFifo := rest }) := by
  simp [popParam, h]

/-! ### The dispatcher -/

theorem dispatch_of_clear {body : State → State} {s : State} (h : (body (clearResponses s)).cdc.fatal = none) :
    dispatch body s = finishCommand (body (clearResponses s)) := by
  simp [dispatch, h]

theorem dispatch_of_fatal {body : State → State} {s : State} {k : FatalKind}
    (h : (body (clearResponses s)).cdc.fatal = some k) : dispatch body s = body (clearResponses s) := by
  simp [dispatch, h]

/-- A command whose body raises no fatal completes with step (6). -/
theorem command_completes {body : State → State} {s : State} (h : s.cdc.fatal = none)
    (hb : (body (clearResponses s)).cdc.fatal = none) :
    operate (dispatch body) s = .next (finishCommand (body (clearResponses s))) := by
  rw [operate_of_clear h, dispatch_of_clear hb]

/-- A command whose body raises a fatal ends there. -/
theorem command_latches {body : State → State} {s : State} {k : FatalKind} (h : s.cdc.fatal = none)
    (hb : (body (clearResponses s)).cdc.fatal = some k) :
    operate (dispatch body) s = .next (body (clearResponses s)) := by
  rw [operate_of_clear h, dispatch_of_fatal hb]

@[simp] theorem clearResponses_cdc (s : State) :
    (clearResponses s).cdc = { s.cdc with irqFifo := [], respFifo := [] } := rfl
@[simp] theorem clearResponses_cfg (s : State) : (clearResponses s).cfg = s.cfg := rfl
@[simp] theorem clearResponses_disc (s : State) : (clearResponses s).disc = s.disc := rfl
@[simp] theorem finishCommand_cdc (s : State) :
    (finishCommand s).cdc = { s.cdc with paramFifo := [], busy := true } := rfl

/-- Step (1) forgets what the two queues held. -/
theorem clearResponses_forgets (s : State) (resp : List Byte) (irq : List IrqCode) :
    clearResponses { s with cdc := { s.cdc with respFifo := resp, irqFifo := irq } } = clearResponses s := rfl

end Sys2Proof.Machine
end

