-- ==== Sys2Proof/Laws/Events.lean ====
section
/-! SUPPORT. What the parts of a tick can do, said once, and what a step does with the front of the inbox. -/

namespace Sys2Proof.Machine

variable (s : State)

/-! ### The tick's first two parts -/

/-- The busy clear and the delivery together: the whole next state. -/
theorem deliver_beginTick :
    deliverInterrupt (beginTick s) = { s with
      cdc := { s.cdc with busy := false }, ticks := s.ticks + 1,
      irqHistory := if frontEnabled s.cdc then s.irqHistory ++ [{ line := s.cfg.irqLineId, tick := s.ticks + 1 }]
        else s.irqHistory } := by
  have hf : frontEnabled { s.cdc with busy := false } = frontEnabled s.cdc := rfl
  simp only [deliverInterrupt, beginTick, State.onCdc, hf]
  split <;> simp [State.raiseInterrupt]

/-! ### The sector pump: idle, counting, fetching -/

theorem sectorPump_idle {s : State} (h : pumping s.cfg.driveBits s.cdc = false) : sectorPump s = s := by
  simp [sectorPump, h]

theorem sectorPump_counts {s : State} (h : pumping s.cfg.driveBits s.cdc = true) (hc : 2 ≤ s.cdc.countdown) :
    sectorPump s = s.onCdc fun c => { c with countdown := c.countdown - 1 } := by
  have hne : ¬s.cdc.countdown - 1 = 0 := by omega
  simp [sectorPump, h, hne]

theorem sectorPump_fetches {s : State} (h : pumping s.cfg.driveBits s.cdc = true) (hc : s.cdc.countdown ≤ 1) :
    sectorPump s = fetchSector (s.onCdc fun c => { c with countdown := s.cfg.sectorPeriod }) := by
  have hz : s.cdc.countdown - 1 = 0 := by omega
  simp [sectorPump, h, hz]

/-- The sync check logs or does nothing. -/
theorem checkSync_cases (pos : Int) (sec : Sector) :
    checkSync pos sec s = s ∨ checkSync pos sec s = s.note (.syncMismatch pos) := by
  unfold checkSync
  split
  · exact .inl rfl
  · split
    · exact .inl rfl
    · exact .inr rfl

/-- What a fetch has done before the data-ready: the bytes stored and the position advanced. -/
def fetched (s : State) : State :=
  s.onCdc fun c => { c with rawSector := some (readSectorAt s.disc s.cdc.readPos).bytes, readPos := c.readPos + 1 }

/-- All a fetch can do: nothing more, a log entry more, and in Reading for a Data sector the data-ready push. -/
theorem fetchSector_cases :
    ∃ t : State, (t = fetched s ∨ t = (fetched s).note (.syncMismatch s.cdc.readPos)) ∧
      fetchSector s =
        if stateTag s.cfg.driveBits s.cdc.drive = .reading ∧ (readSectorAt s.disc s.cdc.readPos).type = .data then
          push s.cfg.intDataReady [s.cdc.drive] t else t := by
  by_cases hi : (readSectorAt s.disc s.cdc.readPos).type = .invalid
  · exact ⟨fetched s, .inl rfl, by simp [fetchSector, hi, fetched]⟩
  · refine ⟨checkSync s.cdc.readPos (readSectorAt s.disc s.cdc.readPos) (fetched s), checkSync_cases _ _ _, ?_⟩
    have hd : (checkSync s.cdc.readPos (readSectorAt s.disc s.cdc.readPos) (fetched s)).cdc = (fetched s).cdc ∧
        (checkSync s.cdc.readPos (readSectorAt s.disc s.cdc.readPos) (fetched s)).cfg = (fetched s).cfg := by
      rcases checkSync_cases (fetched s) s.cdc.readPos (readSectorAt s.disc s.cdc.readPos) with h | h <;>
        rw [h] <;> exact ⟨rfl, rfl⟩
    simp only [fetchSector, if_neg hi, announceData]
    rw [show (s.onCdc fun c => { c with
      rawSector := some (readSectorAt s.disc s.cdc.readPos).bytes, readPos := c.readPos + 1 }) = fetched s from rfl,
      hd.1, hd.2]
    rfl

/-! ### The step -/

/-- All a step can do when it goes on: nothing with no operation waiting, the front operation, or a read that the
map leaves out. -/
theorem step_cases {s t : State} (h : step s = .next t) :
    (s.inbox = [] ∧ t = s) ∨
      ∃ (op : Transaction) (rest : List Transaction), s.inbox = op :: rest ∧
        ((∃ i, fetch s op = .operation i ∧ exec i { s with inbox := rest } = .next t) ∨
          ∃ aa ii, fetch s op = .unmappedRead aa ii ∧ execUnmappedRead aa ii { s with inbox := rest } = .next t) := by
  unfold step at h
  split at h
  · next hi => exact .inl ⟨hi, by simpa using h.symm⟩
  · next op rest hi =>
    refine .inr ⟨op, rest, hi, ?_⟩
    split at h
    · cases h
    · next aa ii hf => exact .inr ⟨aa, ii, hf, h⟩
    · next i hf => exact .inl ⟨i, hf, h⟩

/-- The step on an event of the clock. -/
theorem step_tick {s : State} {rest : List Transaction} (h : s.inbox = .event 0#2 :: rest) :
    step s = exec .tick { s with inbox := rest } := by
  simp [step, h, fetch, route, decode, decodeEvent]

/-- A run of one step and then `n` more. -/
theorem run_succ {n : Nat} {s t u : State} (h : step s = .next t)
    (hr : Host.Core.run Sys2Proof.core n t = .next u) : Host.Core.run Sys2Proof.core (n + 1) s = .next u := by
  have hs : Sys2Proof.core.step s = .next t := h
  simp only [Host.Core.run, hs]
  exact hr

end Sys2Proof.Machine
end

