-- ==== Sys2Proof/Laws/PerInstr.lean ====
section
/-! SUPPORT. One lemma per constructor: the encoding of a well-formed operation is in its row of
spec/opcode_table.json (the columns format, mask and match). -/

namespace Sys2Proof.Laws

/-- The three formats (30_encoding.md R90). -/
inductive Format where
  | cmd
  | reg
  | evt
deriving DecidableEq, Repr

/-- The columns of spec/opcode_table.json that fix an encoding. -/
structure OpcodeRow where
  format : Format
  mask : Byte
  pattern : Byte
deriving DecidableEq, Repr

def formatOf : Encoded → Format
  | .cmd _ => .cmd
  | .read _ _ | .write _ _ _ => .reg
  | .evt _ => .evt

/-- The bits the table numbers: the opcode byte, the descriptor `w aa ii` (R91), the event code. -/
def tableBits : Encoded → Byte
  | .cmd op => op
  | .read aa ii => (0#1 ++ aa ++ ii).setWidth 8
  | .write aa ii _ => (1#1 ++ aa ++ ii).setWidth 8
  | .evt code => code.setWidth 8

/-- spec/opcode_table.json, row by row. -/
def opcodeRow : Instr → OpcodeRow
  | .getstat => ⟨.cmd, 0xFF#8, 0x01#8⟩
  | .setloc => ⟨.cmd, 0xFF#8, 0x02#8⟩
  | .play => ⟨.cmd, 0xFF#8, 0x03#8⟩
  | .readN => ⟨.cmd, 0xFF#8, 0x06#8⟩
  | .motorOn => ⟨.cmd, 0xFF#8, 0x07#8⟩
  | .stop => ⟨.cmd, 0xFF#8, 0x08#8⟩
  | .pause => ⟨.cmd, 0xFF#8, 0x09#8⟩
  | .init => ⟨.cmd, 0xFF#8, 0x0A#8⟩
  | .mute => ⟨.cmd, 0xFF#8, 0x0B#8⟩
  | .demute => ⟨.cmd, 0xFF#8, 0x0C#8⟩
  | .setmode => ⟨.cmd, 0xFF#8, 0x0E#8⟩
  | .getparam => ⟨.cmd, 0xFF#8, 0x0F#8⟩
  | .getTN => ⟨.cmd, 0xFF#8, 0x13#8⟩
  | .getTD => ⟨.cmd, 0xFF#8, 0x14#8⟩
  | .seekL => ⟨.cmd, 0xFF#8, 0x15#8⟩
  | .test => ⟨.cmd, 0xFF#8, 0x19#8⟩
  | .getID => ⟨.cmd, 0xFF#8, 0x1A#8⟩
  | .readS => ⟨.cmd, 0xFF#8, 0x1B#8⟩
  | .unknown _ => ⟨.cmd, 0x00#8, 0x00#8⟩
  | .rdStat _ => ⟨.reg, 0x1C#8, 0x00#8⟩
  | .wrIndex _ _ => ⟨.reg, 0x1C#8, 0x10#8⟩
  | .wrCmd _ => ⟨.reg, 0x1F#8, 0x14#8⟩
  | .rdResp _ => ⟨.reg, 0x1C#8, 0x04#8⟩
  | .wrParam _ => ⟨.reg, 0x1F#8, 0x18#8⟩
  | .rdData _ => ⟨.reg, 0x1C#8, 0x08#8⟩
  | .wrIrqen _ => ⟨.reg, 0x1F#8, 0x19#8⟩
  | .rdIrqen _ => ⟨.reg, 0x1D#8, 0x0C#8⟩
  | .wrIrqack _ => ⟨.reg, 0x1F#8, 0x1D#8⟩
  | .rdIrqflag _ => ⟨.reg, 0x1D#8, 0x0D#8⟩
  | .wrReq _ => ⟨.reg, 0x1F#8, 0x1C#8⟩
  | .wrNop11 _ => ⟨.reg, 0x1F#8, 0x15#8⟩
  | .wrNop12 _ => ⟨.reg, 0x1F#8, 0x16#8⟩
  | .wrNop13 _ => ⟨.reg, 0x1F#8, 0x17#8⟩
  | .wrNop22 _ => ⟨.reg, 0x1F#8, 0x1A#8⟩
  | .wrNop23 _ => ⟨.reg, 0x1F#8, 0x1B#8⟩
  | .wrNop32 _ => ⟨.reg, 0x1F#8, 0x1E#8⟩
  | .wrNop33 _ => ⟨.reg, 0x1F#8, 0x1F#8⟩
  | .tick => ⟨.evt, 0x03#8, 0x00#8⟩
  | .rdDataWord => ⟨.evt, 0x03#8, 0x01#8⟩
  | .reset => ⟨.evt, 0x03#8, 0x02#8⟩

/-- The encoding of `i`, well-formed, under the spec's values is of the row's format and matches its pattern, and it
decodes to `i` itself, so that the default row takes none of the 18 exact ones. -/
def TableRow.Statement (i : Instr) : Prop :=
  i.wellFormed specEncodings = true →
    ∃ e : Encoded, encode specEncodings i = some e ∧ formatOf e = (opcodeRow i).format ∧
      tableBits e &&& (opcodeRow i).mask = (opcodeRow i).pattern ∧ decode specEncodings e = .ok i

theorem TableRow.getstat : TableRow.Statement .getstat := fun _ => ⟨_, rfl, rfl, rfl, rfl⟩
theorem TableRow.setloc : TableRow.Statement .setloc := fun _ => ⟨_, rfl, rfl, rfl, rfl⟩
theorem TableRow.play : TableRow.Statement .play := fun _ => ⟨_, rfl, rfl, rfl, rfl⟩
theorem TableRow.readN : TableRow.Statement .readN := fun _ => ⟨_, rfl, rfl, rfl, rfl⟩
theorem TableRow.motorOn : TableRow.Statement .motorOn := fun _ => ⟨_, rfl, rfl, rfl, rfl⟩
theorem TableRow.stop : TableRow.Statement .stop := fun _ => ⟨_, rfl, rfl, rfl, rfl⟩
theorem TableRow.pause : TableRow.Statement .pause := fun _ => ⟨_, rfl, rfl, rfl, rfl⟩
theorem TableRow.init : TableRow.Statement .init := fun _ => ⟨_, rfl, rfl, rfl, rfl⟩
theorem TableRow.mute : TableRow.Statement .mute := fun _ => ⟨_, rfl, rfl, rfl, rfl⟩
theorem TableRow.demute : TableRow.Statement .demute := fun _ => ⟨_, rfl, rfl, rfl, rfl⟩
theorem TableRow.setmode : TableRow.Statement .setmode := fun _ => ⟨_, rfl, rfl, rfl, rfl⟩
theorem TableRow.getparam : TableRow.Statement .getparam := fun _ => ⟨_, rfl, rfl, rfl, rfl⟩
theorem TableRow.getTN : TableRow.Statement .getTN := fun _ => ⟨_, rfl, rfl, rfl, rfl⟩
theorem TableRow.getTD : TableRow.Statement .getTD := fun _ => ⟨_, rfl, rfl, rfl, rfl⟩
theorem TableRow.seekL : TableRow.Statement .seekL := fun _ => ⟨_, rfl, rfl, rfl, rfl⟩
theorem TableRow.test : TableRow.Statement .test := fun _ => ⟨_, rfl, rfl, rfl, rfl⟩
theorem TableRow.getID : TableRow.Statement .getID := fun _ => ⟨_, rfl, rfl, rfl, rfl⟩
theorem TableRow.readS : TableRow.Statement .readS := fun _ => ⟨_, rfl, rfl, rfl, rfl⟩
theorem TableRow.unknown (op : Byte) : TableRow.Statement (.unknown op) := by
  intro h
  refine ⟨.cmd op, rfl, rfl, by simp [opcodeRow], ?_⟩
  simp only [Instr.wellFormed, Option.isNone_iff_eq_none] at h
  simp [decode, decodeCommand, h]
theorem TableRow.rdStat (ii : Index) : TableRow.Statement (.rdStat ii) := fun _ =>
  ⟨.read 0#2 ii, by revert ii; decide, rfl, by revert ii; decide, by revert ii; decide⟩
theorem TableRow.wrIndex (ii : Index) (v : Byte) : TableRow.Statement (.wrIndex ii v) := fun _ =>
  ⟨.write 0#2 ii v, rfl, rfl, (by decide : ∀ ii : Index, (1#1 ++ 0#2 ++ ii).setWidth 8 &&& 0x1C#8 = 0x10#8) ii, rfl⟩
theorem TableRow.wrCmd (v : Byte) : TableRow.Statement (.wrCmd v) := fun _ =>
  ⟨.write 1#2 0#2 v, rfl, rfl, by simp [tableBits, opcodeRow], rfl⟩
theorem TableRow.rdResp (ii : Index) : TableRow.Statement (.rdResp ii) := fun _ =>
  ⟨.read 1#2 ii, by revert ii; decide, rfl, by revert ii; decide, by revert ii; decide⟩
theorem TableRow.wrParam (v : Byte) : TableRow.Statement (.wrParam v) := fun _ =>
  ⟨.write 2#2 0#2 v, rfl, rfl, by simp [tableBits, opcodeRow], rfl⟩
theorem TableRow.rdData (ii : Index) : TableRow.Statement (.rdData ii) := fun _ =>
  ⟨.read 2#2 ii, by revert ii; decide, rfl, by revert ii; decide, by revert ii; decide⟩
theorem TableRow.wrIrqen (v : Byte) : TableRow.Statement (.wrIrqen v) := fun _ =>
  ⟨.write 2#2 1#2 v, rfl, rfl, by simp [tableBits, opcodeRow], rfl⟩
theorem TableRow.rdIrqen (i : BitVec 1) : TableRow.Statement (.rdIrqen i) := fun _ =>
  ⟨.read 3#2 (i ++ 0#1), by revert i; decide, rfl, by revert i; decide, by revert i; decide⟩
theorem TableRow.wrIrqack (v : Byte) : TableRow.Statement (.wrIrqack v) := fun _ =>
  ⟨.write 3#2 1#2 v, rfl, rfl, by simp [tableBits, opcodeRow], rfl⟩
theorem TableRow.rdIrqflag (i : BitVec 1) : TableRow.Statement (.rdIrqflag i) := fun _ =>
  ⟨.read 3#2 (i ++ 1#1), by revert i; decide, rfl, by revert i; decide, by revert i; decide⟩
theorem TableRow.wrReq (v : Byte) : TableRow.Statement (.wrReq v) := fun _ =>
  ⟨.write 3#2 0#2 v, rfl, rfl, by simp [tableBits, opcodeRow], rfl⟩
theorem TableRow.wrNop11 (v : Byte) : TableRow.Statement (.wrNop11 v) := fun _ =>
  ⟨.write 1#2 1#2 v, rfl, rfl, by simp [tableBits, opcodeRow], rfl⟩
theorem TableRow.wrNop12 (v : Byte) : TableRow.Statement (.wrNop12 v) := fun _ =>
  ⟨.write 1#2 2#2 v, rfl, rfl, by simp [tableBits, opcodeRow], rfl⟩
theorem TableRow.wrNop13 (v : Byte) : TableRow.Statement (.wrNop13 v) := fun _ =>
  ⟨.write 1#2 3#2 v, rfl, rfl, by simp [tableBits, opcodeRow], rfl⟩
theorem TableRow.wrNop22 (v : Byte) : TableRow.Statement (.wrNop22 v) := fun _ =>
  ⟨.write 2#2 2#2 v, rfl, rfl, by simp [tableBits, opcodeRow], rfl⟩
theorem TableRow.wrNop23 (v : Byte) : TableRow.Statement (.wrNop23 v) := fun _ =>
  ⟨.write 2#2 3#2 v, rfl, rfl, by simp [tableBits, opcodeRow], rfl⟩
theorem TableRow.wrNop32 (v : Byte) : TableRow.Statement (.wrNop32 v) := fun _ =>
  ⟨.write 3#2 2#2 v, rfl, rfl, by simp [tableBits, opcodeRow], rfl⟩
theorem TableRow.wrNop33 (v : Byte) : TableRow.Statement (.wrNop33 v) := fun _ =>
  ⟨.write 3#2 3#2 v, rfl, rfl, by simp [tableBits, opcodeRow], rfl⟩
theorem TableRow.tick : TableRow.Statement .tick := fun _ => ⟨_, rfl, rfl, rfl, rfl⟩
theorem TableRow.rdDataWord : TableRow.Statement .rdDataWord := fun _ => ⟨_, rfl, rfl, rfl, rfl⟩
theorem TableRow.reset : TableRow.Statement .reset := fun _ => ⟨_, rfl, rfl, rfl, rfl⟩

end Sys2Proof.Laws
end

