-- ==== Sys2Proof/Tests/Slice0.lean ====
section
/-! SUPPORT. Tests of this model on small states, one step each, and a witness for every hypothesis of the statements.
The expected values are those of spec/95_test_vectors.md, whose vector each test names. -/

namespace Sys2Proof.Tests

open Sys2Proof.Machine

/-! ### States -/

/-- The first `n` bytes of a sector whose byte `i` is `i mod 256`, from `i = k` on. -/
def ramp : Nat → Nat → List Byte
  | 0, _ => []
  | n + 1, k => BitVec.ofNat 8 k :: ramp n (k + 1)

theorem ramp_length (n k : Nat) : (ramp n k).length = n := by
  induction n generalizing k with
  | zero => rfl
  | succ n ih => simp [ramp, ih]

/-- The sector `S0` of the vectors. -/
def sector0 : SectorData := ⟨⟨ramp 2352 0⟩, ramp_length 2352 0⟩

/-- The spec's defaults with a value for what it leaves OPEN. -/
def testConfig : Config :=
  { specDefaults with
    sectorPeriod := 3
    tickQuantum := 0
    resetValues := specResetValues 3
    syncData := #v[0, 1, 2, 3, 4, 5, 6, 7, 8, 9, 10, 11]
    syncAudio := #v[0, 1, 2, 3, 4, 5, 6, 7, 8, 9, 10, 11] }

def testDisc : Disc where
  isEmpty := false
  trackCount := 99
  discSize := { m := 62, s := 17, f := 40 }
  tracks := [(10, { m := 45, s := 7, f := 3 })]
  sectors := [(0, { bytes := sector0, type := .data }), (1, { bytes := sector0, type := .audio }),
    (2, { bytes := sector0, type := .invalid })]

/-- The reset state with these parameters and this disc. -/
def start : State := { State.reset with cdc := Cdc.reset testConfig, cfg := testConfig, disc := testDisc }

/-- The start state with the record changed. -/
def at_ (f : Cdc → Cdc) : State := start.onCdc f

def nextState : Result → Option State
  | .next t => some t
  | _ => none

/-- What a successful step leaves, seen through `f`. -/
def after {α : Type} (r : Result) (f : State → α) : Option α := (nextState r).map f

def queues (s : State) : List Byte × List IrqCode × Byte := (s.cdc.respFifo, s.cdc.irqFifo, s.cdc.drive)

/-! ### Well-formedness -/

theorem test_wellFormed_refuses_recognised_opcode : (Instr.unknown 0x01#8).wellFormed specEncodings = false := by decide
theorem test_wellFormed_refuses_every_recognised_opcode :
    (commandNames.all fun c => !(Instr.unknown (specOpcodes.of c)).wellFormed specEncodings) = true := by decide
theorem test_wellFormed_accepts_unknown_opcode : (Instr.unknown 0x1C#8).wellFormed specEncodings = true := by decide

/-- Layouts that share an opcode, a row or a bit, or have no place for a row, are refused. -/
theorem test_opcodes_wellFormed_refuses_a_shared_opcode :
    ({ specOpcodes with init := 0x01#8 } : Opcodes).wellFormed = false := by decide
theorem test_encodings_wellFormed_refuses_two_command_registers :
    ({ specEncodings with writeMap := { specEncodings.writeMap with
        register3 := #v[.command, .irqAck, .nop32, .nop33] } } : Encodings).wellFormed = false := by decide
theorem test_encodings_complete_refuses_a_map_without_a_request_register :
    ({ specEncodings with writeMap := { specEncodings.writeMap with
        register3 := #v[.command, .irqAck, .nop32, .nop33] } } : Encodings).complete = false := by decide
theorem test_stat_bits_wellFormed_refuses_the_upper_index_bit :
    ({ specStatBits with adpcm := 1 } : StatBits).wellFormed = false := by decide
theorem test_drive_bits_wellFormed_refuses_a_shared_bit :
    ({ specDriveBits with playing := 6 } : DriveBits).wellFormed = false := by decide
theorem test_spec_layout_is_wellFormed :
    specEncodings.wellFormed = true ∧ specEncodings.complete = true ∧ specStatBits.wellFormed = true ∧
      specDriveBits.wellFormed = true := by decide

/-! ### Decoding: words written out from the encodings of 30_encoding.md -/

/-- R96, and R199 for the last three. -/
theorem test_decode_commands :
    decode specEncodings (.cmd 0b00000001#8) = .ok .getstat ∧ decode specEncodings (.cmd 0b00000010#8) = .ok .setloc ∧
    decode specEncodings (.cmd 0b00000011#8) = .ok .play ∧ decode specEncodings (.cmd 0b00000110#8) = .ok .readN ∧
    decode specEncodings (.cmd 0b00000111#8) = .ok .motorOn ∧ decode specEncodings (.cmd 0b00001000#8) = .ok .stop ∧
    decode specEncodings (.cmd 0b00001001#8) = .ok .pause ∧ decode specEncodings (.cmd 0b00001010#8) = .ok .init ∧
    decode specEncodings (.cmd 0b00001011#8) = .ok .mute ∧ decode specEncodings (.cmd 0b00001100#8) = .ok .demute ∧
    decode specEncodings (.cmd 0b00001110#8) = .ok .setmode ∧ decode specEncodings (.cmd 0b00001111#8) = .ok .getparam ∧
    decode specEncodings (.cmd 0b00010011#8) = .ok .getTN ∧ decode specEncodings (.cmd 0b00010100#8) = .ok .getTD ∧
    decode specEncodings (.cmd 0b00010101#8) = .ok .seekL ∧ decode specEncodings (.cmd 0b00011001#8) = .ok .test ∧
    decode specEncodings (.cmd 0b00011010#8) = .ok .getID ∧ decode specEncodings (.cmd 0b00011011#8) = .ok .readS ∧
    decode specEncodings (.cmd 0b00001101#8) = .ok (.unknown 0x0D#8) ∧ decode specEncodings (.cmd 0b00010010#8) = .ok (.unknown 0x12#8) ∧
    decode specEncodings (.cmd 0b00011100#8) = .ok (.unknown 0x1C#8) := by decide

/-- The read rows of R92, offset then index. -/
theorem test_decode_reads :
    decode specEncodings (.read 0b00#2 0b10#2) = .ok (.rdStat 2#2) ∧ decode specEncodings (.read 0b01#2 0b11#2) = .ok (.rdResp 3#2) ∧
    decode specEncodings (.read 0b10#2 0b01#2) = .ok (.rdData 1#2) ∧ decode specEncodings (.read 0b11#2 0b00#2) = .ok (.rdIrqen 0#1) ∧
    decode specEncodings (.read 0b11#2 0b10#2) = .ok (.rdIrqen 1#1) ∧ decode specEncodings (.read 0b11#2 0b01#2) = .ok (.rdIrqflag 0#1) ∧
    decode specEncodings (.read 0b11#2 0b11#2) = .ok (.rdIrqflag 1#1) := by decide

/-- The write rows of R92, offset, index and data byte. -/
theorem test_decode_writes :
    decode specEncodings (.write 0b00#2 0b01#2 0xFD#8) = .ok (.wrIndex 1#2 0xFD#8) ∧
    decode specEncodings (.write 0b01#2 0b00#2 0x0A#8) = .ok (.wrCmd 0x0A#8) ∧
    decode specEncodings (.write 0b10#2 0b00#2 0x12#8) = .ok (.wrParam 0x12#8) ∧
    decode specEncodings (.write 0b10#2 0b01#2 0x1F#8) = .ok (.wrIrqen 0x1F#8) ∧
    decode specEncodings (.write 0b11#2 0b01#2 0x07#8) = .ok (.wrIrqack 0x07#8) ∧
    decode specEncodings (.write 0b11#2 0b00#2 0x80#8) = .ok (.wrReq 0x80#8) ∧
    decode specEncodings (.write 0b01#2 0b01#2 0x55#8) = .ok (.wrNop11 0x55#8) ∧
    decode specEncodings (.write 0b01#2 0b10#2 0x55#8) = .ok (.wrNop12 0x55#8) ∧
    decode specEncodings (.write 0b01#2 0b11#2 0x55#8) = .ok (.wrNop13 0x55#8) ∧
    decode specEncodings (.write 0b10#2 0b10#2 0x55#8) = .ok (.wrNop22 0x55#8) ∧
    decode specEncodings (.write 0b10#2 0b11#2 0x55#8) = .ok (.wrNop23 0x55#8) ∧
    decode specEncodings (.write 0b11#2 0b10#2 0x55#8) = .ok (.wrNop32 0x55#8) ∧
    decode specEncodings (.write 0b11#2 0b11#2 0x55#8) = .ok (.wrNop33 0x55#8) := by decide

/-- R93. -/
theorem test_decode_events :
    decode specEncodings (.evt 0b00#2) = .ok .tick ∧ decode specEncodings (.evt 0b01#2) = .ok .rdDataWord ∧ decode specEncodings (.evt 0b10#2) = .ok .reset ∧
    decode specEncodings (.evt 0b11#2) = .error .unusedEventCode := by decide

/-- Encodings other than the spec's: the parameter register moved to register 3, and no read of register 1 at index 3. -/
def otherEncodings : Encodings :=
  { opcodes := { specOpcodes with getstat := 0x51#8 }
    writeMap :=
      { register1 := #v[.command, .nop11, .nop12, .nop13]
        register2 := #v[.request, .irqEnable, .nop22, .nop23]
        register3 := #v[.parameter, .irqAck, .nop32, .nop33] }
    readMap :=
      { specEncodings.readMap with
        register1 := #v[some (.response 0#2), some (.response 1#2), some (.response 2#2), none] } }

/-- The parameters are read (R8): the same words under other numbers. -/
theorem test_decode_follows_the_configuration :
    otherEncodings.wellFormed = true ∧ decode otherEncodings (.cmd 0x51#8) = .ok .getstat ∧
    decode otherEncodings (.cmd 0x01#8) = .ok (.unknown 0x01#8) ∧
    decode otherEncodings (.write 3#2 0#2 0x12#8) = .ok (.wrParam 0x12#8) ∧
    decode otherEncodings (.read 1#2 3#2) = .error (.unmappedRead 1#2 3#2) := by decide

/-- Bare words of the opcode table, by width (log 4). -/
theorem test_decodeTableWord :
    decodeTableWord 8 0x0A = some .init ∧ decodeTableWord 8 0x1C = some (.wrReq 0x00#8) ∧
    decodeTableWord 8 0xFE = some (.unknown 0xFE#8) ∧ decodeTableWord 5 0b11001 = some (.wrIrqen 0x00#8) ∧
    decodeTableWord 5 0b00001 = some (.rdStat 1#2) ∧ decodeTableWord 2 0b10 = some .reset ∧
    decodeTableWord 2 0b11 = none := by decide

/-- The placed word is what the next step runs, from reset itself. -/
theorem test_withFetchWord_runs_init :
    after (step (State.reset.withFetchWord 8 0x0A)) queues = some ([0x00#8, 0x02#8], [3#3, 2#3], 0x02#8) := by decide

/-! ### Commands -/

/-- K1 -/
theorem test_getstat : after (exec .getstat (at_ fun c => { c with drive := 0x22#8 })) queues =
    some ([0x22#8], [3#3], 0x22#8) := by decide
/-- K2 -/
theorem test_getstat_discards_parameters :
    after (exec .getstat (at_ fun c => { c with paramFifo := [1#8, 2#8, 3#8] })) (fun t => (t.cdc.paramFifo, t.cdc.busy)) =
      some ([], true) := by decide
/-- K3 -/
theorem test_setloc : after (exec .setloc (at_ fun c => { c with paramFifo := [0x99#8, 0x59#8, 0x74#8] }))
    (fun t => (t.cdc.seekTarget, t.cdc.readPos, queues t)) = some (449849, 0, [0x00#8], [3#3], 0x00#8) := by decide
/-- K6 -/
theorem test_setloc_ignores_a_fourth_parameter :
    after (exec .setloc (at_ fun c => { c with paramFifo := [0x00#8, 0x02#8, 0x00#8, 0x99#8] }))
      (fun t => (t.cdc.seekTarget, t.cdc.paramFifo)) = some (0, []) := by decide
/-- K7 -/
theorem test_play : after (exec .play (at_ fun c => { c with drive := 0x22#8, seekTarget := 100, readPos := 7 }))
    (fun t => (t.cdc.readPos, queues t)) = some (100, [0x82#8], [3#3], 0x82#8) := by decide
/-- K8 -/
theorem test_readN : after (exec .readN (at_ fun c => { c with drive := 0x82#8, seekTarget := 100, readPos := 130 }))
    (fun t => (t.cdc.readPos, queues t)) = some (100, [0x22#8], [3#3], 0x22#8) := by decide
/-- K9 -/
theorem test_readS : after (exec .readS (at_ fun c => { c with drive := 0x82#8, seekTarget := 100, readPos := 130 }))
    (fun t => (t.cdc.readPos, queues t)) = some (100, [0x22#8], [3#3], 0x22#8) := by decide
/-- K11 -/
theorem test_motorOn : after (exec .motorOn (at_ fun c => { c with drive := 0x22#8 })) queues =
    some ([0x22#8, 0x22#8], [3#3, 2#3], 0x22#8) := by decide
/-- K12 -/
theorem test_stop : after (exec .stop (at_ fun c => { c with drive := 0x22#8 })) queues =
    some ([0x00#8, 0x00#8], [3#3, 2#3], 0x00#8) := by decide
/-- K13 -/
theorem test_pause : after (exec .pause (at_ fun c => { c with drive := 0x82#8 })) queues =
    some ([0x82#8, 0x02#8], [3#3, 2#3], 0x02#8) := by decide
/-- K15 -/
theorem test_init : after (exec .init (at_ fun c => { c with drive := 0x42#8, mode := 0x20#8, mute := true }))
    (fun t => (t.cdc.mode, t.cdc.mute, queues t)) = some (0x20#8, true, [0x42#8, 0x02#8], [3#3, 2#3], 0x02#8) := by decide
/-- K16 -/
theorem test_mute_is_no_toggle : after (exec .mute (at_ fun c => { c with mute := true })) (·.cdc.mute) = some true := by
  decide
/-- K17 -/
theorem test_demute : after (exec .demute (at_ fun c => { c with mute := true, drive := 0x02#8 }))
    (fun t => (t.cdc.mute, queues t)) = some (false, [0x02#8], [3#3], 0x02#8) := by decide
/-- K20 -/
theorem test_setmode : after (exec .setmode (at_ fun c => { c with paramFifo := [0xEF#8] }))
    (fun t => (t.cdc.mode, wholeSector t.cfg t.cdc, t.cdc.respFifo)) = some (0xEF#8, true, [0x00#8]) := by decide
/-- K21 -/
theorem test_setmode_unsupported : after (exec .setmode (at_ fun c => { c with paramFifo := [0x30#8] }))
    (fun t => (t.cdc.fatal, t.cdc.mode, t.cdc.busy)) = some (some .unsupportedMode, 0x00#8, false) := by decide
/-- K22 -/
theorem test_getparam : after (exec .getparam (at_ fun c => { c with drive := 0x02#8 })) queues =
    some ([0x02#8, 0x00#8, 0x00#8], [3#3], 0x02#8) := by decide
/-- K24 -/
theorem test_getTN : after (exec .getTN (at_ fun c => { c with drive := 0x02#8 })) queues =
    some ([0x02#8, 0x01#8, 0x99#8], [3#3], 0x02#8) := by decide
/-- K25 -/
theorem test_getTD_track : after (exec .getTD (at_ fun c => { c with drive := 0x02#8, paramFifo := [0x10#8] })) queues =
    some ([0x02#8, 0x45#8, 0x07#8], [3#3], 0x02#8) := by decide
/-- K26 -/
theorem test_getTD_disc_end : after (exec .getTD (at_ fun c => { c with drive := 0x02#8, paramFifo := [0x00#8] }))
    queues = some ([0x02#8, 0x62#8, 0x17#8], [3#3], 0x02#8) := by decide
/-- K27 -/
theorem test_seekL : after (exec .seekL (at_ fun c => { c with drive := 0x22#8, seekTarget := 5 }))
    (fun t => (t.cdc.readPos, queues t)) = some (5, [0x22#8, 0x42#8], [3#3, 2#3], 0x42#8) := by decide
/-- K28 -/
theorem test_test_identification : after (exec .test (at_ fun c => { c with paramFifo := [0x20#8] })) queues =
    some ([0x94#8, 0x09#8, 0x19#8, 0xC0#8], [3#3], 0x00#8) := by decide
/-- K29 -/
theorem test_test_other : after (exec .test (at_ fun c => { c with paramFifo := [0x00#8] })) queues =
    some ([0x11#8, 0x40#8], [5#3], 0x00#8) := by decide
/-- K30 -/
theorem test_getID_disc : after (exec .getID (at_ fun c => { c with drive := 0x02#8 })) queues =
    some ([0x02#8, 0x02#8, 0x00#8, 0x20#8, 0x00#8, 0x53#8, 0x43#8, 0x45#8, 0x41#8], [3#3, 2#3], 0x02#8) := by decide
/-- V4 -/
theorem test_getID_no_disc : after (exec .getID { start with disc := { testDisc with isEmpty := true } }) queues =
    some ([0x00#8, 0x08#8, 0x40#8, 0x00#8, 0x00#8, 0x00#8, 0x00#8, 0x00#8, 0x00#8], [3#3, 5#3], 0x00#8) := by decide
/-- V8 -/
theorem test_unknown : after (exec (.unknown 0x00#8) start) queues = some ([0x11#8, 0x40#8], [5#3], 0x00#8) := by decide

/-! ### Registers -/

/-- P2, row 23 -/
theorem test_rdStat_data_available :
    after (exec (.rdStat 0#2) (at_ fun c => { c with active := some sector0 })) (·.readValue) =
      some (some (.byte 0x58#8)) := by decide
/-- B9 and G16: a drained buffer, a full parameter queue, index 3, busy -/
theorem test_rdStat_flags :
    after (exec (.rdStat 3#2) (at_ fun c => { c with
      active := some sector0, cursor := 2048, paramFifo := ramp 16 1, index := 3#2, busy := true, respFifo := [7#8] }))
      (·.readValue) = some (some (.byte 0xA3#8)) := by decide
/-- R121's example -/
theorem test_wrIndex : after (exec (.wrIndex 0#2 0xFD#8) start) (·.cdc.index) = some 1#2 := by decide
/-- V3, and K34 -/
theorem test_wrCmd_init : after (exec (.wrCmd 0x0A#8) start) queues = some ([0x00#8, 0x02#8], [3#3, 2#3], 0x02#8) := by
  decide
theorem test_wrCmd_unknown_discards_the_queues :
    after (exec (.wrCmd 0x04#8) (at_ fun c => { c with respFifo := [1#8, 2#8, 3#8], irqFifo := [1#3, 1#3, 1#3] }))
      queues = some ([0x11#8, 0x40#8], [5#3], 0x00#8) := by decide
/-- G19 -/
theorem test_rdResp : after (exec (.rdResp 0#2) (at_ fun c => { c with respFifo := [7#8], irqFifo := [3#3] }))
    (fun t => (t.readValue, t.cdc.respFifo, t.cdc.irqFifo)) = some (some (.byte 7#8), [], [3#3]) := by decide
/-- G4 -/
theorem test_rdResp_empty : after (exec (.rdResp 0#2) start) (·.readValue) = some (some (.byte 0x00#8)) := by decide
/-- G15 -/
theorem test_wrParam : after (exec (.wrParam 0x01#8) start) (fun t => (t.cdc.paramFifo, stat t.cfg t.cdc)) =
    some ([0x01#8], 0x10#8) := by decide
/-- G17 -/
theorem test_wrParam_full : after (exec (.wrParam 0x11#8) (at_ fun c => { c with paramFifo := ramp 16 1 }))
    (fun t => (t.cdc.paramFifo, t.log)) = some (ramp 16 1, [.parameterOverflow 0x11#8]) := by decide
/-- B9: the last byte of data-only mode -/
theorem test_rdData_last : after (exec (.rdData 0#2) (at_ fun c => { c with active := some sector0, cursor := 2047 }))
    (fun t => (t.readValue, t.cdc.cursor)) = some (some (.byte 0x17#8), 2048) := by decide +kernel
/-- B8: whole-sector mode -/
theorem test_rdData_whole_sector :
    after (exec (.rdData 0#2) (at_ fun c => { c with active := some sector0, mode := 0x20#8 }))
      (fun t => (t.readValue, t.cdc.cursor)) = some (some (.byte 0x0C#8), 1) := by decide
/-- G5 -/
theorem test_wrIrqen : after (exec (.wrIrqen 0xFF#8) start) (·.cdc.irqEnable) = some 0xFF#8 := by decide
theorem test_rdIrqen : after (exec (.rdIrqen 1#1) (at_ fun c => { c with irqEnable := 0xFF#8 })) (·.readValue) =
    some (some (.byte 0xFF#8)) := by decide
/-- G7 -/
theorem test_wrIrqack_pops_one :
    after (exec (.wrIrqack 0x07#8) (at_ fun c => { c with irqFifo := [3#3, 2#3], paramFifo := [9#8] }))
      (fun t => (t.cdc.irqFifo, t.cdc.paramFifo)) = some ([2#3], [9#8]) := by decide
/-- G8 -/
theorem test_wrIrqack_clears_parameters :
    after (exec (.wrIrqack 0x40#8) (at_ fun c => { c with irqFifo := [2#3], paramFifo := [9#8] }))
      (fun t => (t.cdc.irqFifo, t.cdc.paramFifo)) = some ([2#3], []) := by decide
/-- G6 -/
theorem test_rdIrqflag : after (exec (.rdIrqflag 0#1) (at_ fun c => { c with irqFifo := [3#3, 2#3] }))
    (fun t => (t.readValue, t.cdc.irqFifo)) = some (some (.byte 0x03#8), [3#3, 2#3]) := by decide
/-- B5 -/
theorem test_wrReq_adopts_when_drained :
    after (exec (.wrReq 0xFF#8) (at_ fun c => { c with active := some sector0, rawSector := some sector0, cursor := 2048 }))
      (·.cdc.cursor) = some 0 := by decide
/-- B4 -/
theorem test_wrReq_clears : after (exec (.wrReq 0x7F#8) (at_ fun c => { c with active := some sector0, cursor := 5 }))
    (fun t => (t.cdc.active.isSome, t.cdc.cursor)) = some (false, 0) := by decide
/-- G13: not a command at index 1; G14 and G12 for the others -/
theorem test_wrNop11 : after (exec (.wrNop11 0x0A#8) start) queues = some ([], [], 0x00#8) := by decide
theorem test_wrNop12 : after (exec (.wrNop12 0x55#8) start) queues = some ([], [], 0x00#8) := by decide
theorem test_wrNop13 : after (exec (.wrNop13 0x55#8) start) queues = some ([], [], 0x00#8) := by decide
theorem test_wrNop22 : after (exec (.wrNop22 0x55#8) start) (·.cdc.irqEnable) = some 0x00#8 := by decide
theorem test_wrNop23 : after (exec (.wrNop23 0x55#8) start) (·.cdc.paramFifo) = some [] := by decide
theorem test_wrNop32 : after (exec (.wrNop32 0x07#8) (at_ fun c => { c with irqFifo := [3#3] })) (·.cdc.irqFifo) =
    some [3#3] := by decide
theorem test_wrNop33 : after (exec (.wrNop33 0x07#8) (at_ fun c => { c with irqFifo := [3#3] })) (·.cdc.irqFifo) =
    some [3#3] := by decide

/-! ### Events -/

/-- T2 and T14: a masked front code, busy cleared -/
theorem test_tick_masked : after (exec .tick (at_ fun c => { c with irqFifo := [3#3], irqEnable := 0x04#8, busy := true }))
    (fun t => (t.irqHistory, t.cdc.busy)) = some ([], false) := by decide
/-- T13 with P2, row 16: raise for the front code, then the fetch of S0 and its data-ready -/
theorem test_tick_fetches :
    after (exec .tick (at_ fun c => { c with
      drive := 0x22#8, countdown := 1, irqFifo := [3#3], respFifo := [0x22#8], irqEnable := 0x1F#8 }))
      (fun t => (queues t, t.cdc.readPos, t.cdc.countdown, t.irqHistory)) =
      some (([0x22#8, 0x22#8], [3#3, 1#3], 0x22#8), 1, 3, [{ line := 2, tick := 1 }]) := by decide
/-- V10 -/
theorem test_rdDataWord : after (exec .rdDataWord (at_ fun c => { c with active := some sector0 }))
    (fun t => (t.readValue, t.cdc.cursor)) = some (some (.word 0x1B1A1918#32), 4) := by decide
/-- B11 -/
theorem test_rdDataWord_runs_out :
    after (exec .rdDataWord (at_ fun c => { c with active := some sector0, cursor := 2046 }))
      (fun t => (t.readValue, t.cdc.cursor)) = some (some (.word 0x00001716#32), 2048) := by decide +kernel
/-- X4 -/
theorem test_reset_leaves_the_faulted_condition :
    after (exec .reset (at_ fun c => { c with fatal := some .paramStarvation, drive := 0x22#8 }))
      (fun t => (t.cdc.fatal, t.cdc.drive, stat t.cfg t.cdc)) = some (none, 0x00#8, 0x18#8) := by decide

/-- R226, the `Reset()` row, and R341: queues and buffers go, whatever the reset values are. -/
theorem test_reset_empties_queues_and_buffers :
    after (exec .reset { at_ (fun c => { c with
      paramFifo := [1#8], respFifo := [2#8], irqFifo := [3#3], rawSector := some sector0, active := some sector0 }) with
      cfg := { testConfig with resetValues := { specResetValues 3 with drive := 0x02#8 } } })
      (fun t => (t.cdc.paramFifo, queues t, t.cdc.rawSector.isSome, t.cdc.active.isSome)) =
      some ([], ([], [], 0x02#8), false, false) := by decide

/-! ### Positions: A2, A4, A5, A6 -/

theorem test_bcd : bcdDec 0xFF#8 = 165 ∧ bcdEnc 165 = 0x05#8 ∧ bcdEnc 100 = 0xA0#8 := by decide
theorem test_lba : toLba { m := 0, s := 1, f := 74 } = -1 ∧ fromLba (-1) = some { m := 0, s := 1, f := 74 } ∧
    fromLba 450000 = some { m := 100, s := 2, f := 0 } ∧ fromLba (-151) = none := by decide

/-! ### Layouts other than the spec's -/

/-- R68: a read the map leaves out "returns 0x00 and changes nothing". -/
theorem test_unmapped_read :
    after (step { at_ (fun c => { c with index := 3#2, respFifo := [7#8] }) with
      cfg := { testConfig with encodings := otherEncodings }, inbox := [.memRead (testConfig.cdromBase + 1) 1] })
      (fun t => (t.readValue, t.cdc.respFifo)) = some (some (.byte 0x00#8), [7#8]) := by decide

/-- The bits of the two status bytes and the reset values are read from the configuration (R7). -/
theorem test_layout_is_configuration :
    after (exec .motorOn { start with cfg := { testConfig with driveBits := { specDriveBits with motorOn := 0, error := 1 } } })
      (·.cdc.drive) = some 0x01#8 ∧
    after (exec (.rdStat 0#2) { start with
      cfg := { testConfig with statBits := { specStatBits with prmEmpty := 7, busy := 3 } } }) (·.readValue) =
      some (some (.byte 0x90#8)) ∧
    after (exec .reset { start with
      cfg := { testConfig with resetValues := { specResetValues 3 with mode := 0x20#8 } } }) (·.cdc.mode) =
      some 0x20#8 := by decide

/-! ### Witnesses: the hypotheses of the statements can be met -/

/-- No fatal recorded, the one hypothesis (beside the naming of the new drive byte) of GetstatAcknowledges, PlayStartsAtTheSeekTarget, MotorOnSetsTheMotorFlag,
StopClearsStateAndMotor, PauseStopsBetweenItsEnvelopes, InitResetsTheDriveStatus, MuteSetsAndDemuteClears,
GetparamAnswersStatusAndReservedBytes, GetTNAnswersTheTrackNumbers, SeekLMovesBetweenItsEnvelopes,
UnknownOpcodeAnswersTheErrorResponse, EveryOperationHasAStepUnlessLatched, IndexWriteStoresTwoBits,
InterruptEnableIsStoredAndReadBack, AcknowledgePopsAtMostOneCode, WritesWithNoTargetChangeNothing,
TickRaisesTheLineForAnEnabledFrontCode, WordReadIsFourByteReads. -/
theorem witness_no_fatal : start.cdc.fatal = none := by decide

theorem witness_DecodeOfEncodeGivesTheInstruction :
    otherEncodings.wellFormed = true ∧ (Instr.unknown 0xFF#8).wellFormed otherEncodings = true ∧
      encode otherEncodings (.unknown 0xFF#8) = some (.cmd 0xFF#8) ∧ specEncodings.complete = true := by decide
theorem witness_EncodeOfDecodeGivesTheEncoding :
    specEncodings.wellFormed = true ∧ decode specEncodings (.write 3#2 1#2 0x47#8) = .ok (.wrIrqack 0x47#8) := by decide

/-- A read of register 1 as the front of the inbox. -/
def reading : State := { start with inbox := [.memRead (testConfig.cdromBase + 1) 1] }

theorem witness_StepRunsTheDecodedInstruction :
    reading.inbox = .memRead (testConfig.cdromBase + 1) 1 :: [] ∧
      route reading (.memRead (testConfig.cdromBase + 1) 1) = .ok (.read 1#2 0#2) ∧
      decode reading.cfg.encodings (.read 1#2 0#2) = .ok (.rdResp 0#2) := by decide

/-- One state for each clause, at the first and the last offset. -/
theorem witness_WindowAccessSelectsTheOperation :
    ({ start with inbox := [.memRead (start.cfg.cdromBase + (0#2).toNat) 1] } : State).inbox =
      [.memRead (0x1F801800 + 0) 1] ∧
    ({ start with inbox := [.memRead (start.cfg.cdromBase + (3#2).toNat) 1] } : State).inbox =
      [.memRead (0x1F801800 + 3) 1] ∧
    ({ start with inbox := [.memWrite (start.cfg.cdromBase + (3#2).toNat) [0x80#8]] } : State).inbox =
      [.memWrite (0x1F801800 + 3) [0x80#8]] ∧
    ({ start with inbox := [.memRead (start.cfg.cdromBase + 2) 4] } : State).inbox = [.memRead (0x1F801800 + 2) 4] ∧
    ({ start with inbox := [.event 2#2] } : State).inbox = [.event 2#2] ∧
    decodeRead start.cfg.encodings 3#2 start.cdc.index = .ok (.rdIrqen 0#1) ∧
    otherEncodings.readRow 1#2 3#2 = none ∧ (1#2 : Index) ≠ 0#2 := by decide

/-- One access for each clause, at the edges of the window. -/
theorem witness_OtherAccessesAreRefused :
    (0x1F8017FF < start.cfg.cdromBase ∨ start.cfg.cdromBase + 3 < 0x1F8017FF) ∧
    (0x1F801804 < start.cfg.cdromBase ∨ start.cfg.cdromBase + 3 < 0x1F801804) ∧
    (start.cfg.cdromBase ≤ 0x1F801803 ∧ 0x1F801803 ≤ start.cfg.cdromBase + 3 ∧ (4 : Nat) ≠ 1 ∧
      ¬((4 : Nat) = 4 ∧ 0x1F801803 = start.cfg.cdromBase + 2)) ∧
    (start.cfg.cdromBase ≤ 0x1F801802 ∧ 0x1F801802 ≤ start.cfg.cdromBase + 3 ∧ (2 : Nat) ≠ 1 ∧
      ¬((2 : Nat) = 4 ∧ 0x1F801802 = start.cfg.cdromBase + 2)) ∧
    (start.cfg.cdromBase ≤ 0x1F801800 ∧ 0x1F801800 ≤ start.cfg.cdromBase + 3 ∧ ([] : List Byte).length ≠ 1) := by decide

theorem witness_PlacedTableWordIsWhatTheNextStepRuns :
    start.cfg.encodings.complete = true ∧ decodeWord start.cfg.encodings 8 0x1B = some .readS ∧
      State.reset.cfg.encodings = specEncodings ∧ decodeTableWord 8 0x1B = some .readS := by decide

theorem witness_SetlocStoresTheSeekTarget :
    (at_ fun c => { c with paramFifo := [0x00#8, 0x02#8, 0x00#8] }).cdc.fatal = none ∧
      (at_ fun c => { c with paramFifo := [0x00#8, 0x02#8, 0x00#8] }).cdc.paramFifo = 0x00#8 :: 0x02#8 :: 0x00#8 :: [] := by
  decide

theorem witness_ReadCommandsStartAtTheSeekTarget :
    (Instr.readN = .readN ∨ Instr.readN = .readS) ∧ (Instr.readS = .readN ∨ Instr.readS = .readS) ∧
      start.cdc.fatal = none := by decide

/-- For SetmodeStoresTheModeByte, and with the mask met UnsupportedModeIsFatal. -/
theorem witness_SetmodeStoresTheModeByte :
    (at_ fun c => { c with paramFifo := [0xEF#8] }).cdc.fatal = none ∧
      (at_ fun c => { c with paramFifo := [0xEF#8] }).cdc.paramFifo = 0xEF#8 :: [] ∧
      0xEF#8 &&& start.cfg.modeUnsupportedMask = 0#8 := by decide
theorem witness_UnsupportedModeIsFatal :
    (at_ fun c => { c with paramFifo := [0x10#8] }).cdc.fatal = none ∧
      (at_ fun c => { c with paramFifo := [0x10#8] }).cdc.paramFifo = 0x10#8 :: [] ∧
      0x10#8 &&& start.cfg.modeUnsupportedMask ≠ 0#8 := by decide

/-- For GetTDAnswersTheTrackStartOrDiscEnd and TestAnswersByItsSubfunction, both cases of each. -/
theorem witness_GetTD_and_Test :
    (at_ fun c => { c with paramFifo := [0x00#8] }).cdc.paramFifo = 0x00#8 :: [] ∧
      (at_ fun c => { c with paramFifo := [0x20#8] }).cdc.paramFifo = 0x20#8 :: [] ∧
      (at_ fun c => { c with paramFifo := [0x20#8] }).cdc.fatal = none ∧ bcdDec 0x00#8 = 0 ∧ bcdDec 0x20#8 ≠ 0 := by
  decide

/-- The three ways, shell open, disc present, no disc. -/
theorem witness_GetIDAnswersThreeWays :
    (at_ fun c => { c with drive := 0x12#8 }).cdc.drive.getLsbD specDriveBits.shellOpen = true ∧
      (start.cdc.drive.getLsbD specDriveBits.shellOpen = false ∧ start.disc.isEmpty = false) ∧
      ({ start with disc := { testDisc with isEmpty := true } } : State).disc.isEmpty = true := by decide

/-- Each command short of a parameter, Setloc with the most that is too few. -/
theorem witness_MissingParameterIsFatal :
    ((at_ fun c => { c with paramFifo := [0x12#8, 0x34#8] }).cdc.fatal = none ∧
      (at_ fun c => { c with paramFifo := [0x12#8, 0x34#8] }).cdc.paramFifo.length < 3) ∧
    start.cdc.fatal = none ∧ start.cdc.paramFifo = [] := by decide

theorem witness_LatchedFatalStopsEveryOperation :
    (at_ fun c => { c with fatal := some .paramStarvation }).cdc.fatal = some .paramStarvation ∧
      Instr.tick ≠ .reset := by decide

theorem witness_OnlyParameterCommandsLatchAFatal :
    exec .test start = .next ((clearResponses start).raiseFatal .paramStarvation) ∧ start.cdc.fatal = none ∧
      ((clearResponses start).raiseFatal .paramStarvation).cdc.fatal ≠ none := ⟨rfl, rfl, by decide⟩

/-- The three opcodes with conditions, each with exactly what it needs, and an opcode with none. -/
theorem witness_CommandWriteCompletesWhenSupplied :
    (at_ fun c => { c with paramFifo := [0x00#8, 0x02#8, 0x00#8] }).cdc.paramFifo.length = 3 ∧
      (at_ fun c => { c with paramFifo := [0x20#8] }).cdc.paramFifo.length = 1 ∧
      (at_ fun c => { c with paramFifo := [0x20#8] }).cdc.paramFifo.headD 0#8 &&& start.cfg.modeUnsupportedMask = 0#8 ∧
      start.cfg.encodings.opcodes.setloc = 0x02#8 ∧ start.cfg.encodings.opcodes.setmode = 0x0E#8 ∧
      start.cfg.encodings.opcodes.getTD = 0x14#8 ∧ start.cfg.encodings.opcodes.test = 0x19#8 ∧ start.cdc.fatal = none := by decide

/-- Bit 6 at its two boundaries, in both modes (StatusReadReportsTheFlags, DataReadAdvancesTheCursor). -/
theorem witness_data_available_boundaries :
    dataAvailable testConfig { start.cdc with active := some sector0, cursor := 2047 } = true ∧
      dataAvailable testConfig { start.cdc with active := some sector0, cursor := 2048 } = false ∧
      dataAvailable testConfig { start.cdc with active := some sector0, mode := 0x20#8, cursor := 2339 } = true ∧
      dataAvailable testConfig { start.cdc with active := some sector0, mode := 0x20#8, cursor := 2340 } = false ∧
      start.cfg.statBits.wellFormed = true ∧ start.cdc.fatal = none := by decide

theorem witness_DataReadAdvancesTheCursor :
    (start.cdc.mode &&& start.cfg.modeWholeSector = 0#8 ∧ 2047 < 2048) ∧
      (0x20#8 &&& start.cfg.modeWholeSector ≠ 0#8 ∧ 2339 < (start.cfg.payloadWhole : Nat)) ∧ start.cdc.active = none ∧
      (at_ fun c => { c with active := some sector0 }).cdc.active = some sector0 := ⟨by decide, by decide, rfl, rfl⟩

theorem witness_ResponseReadPopsOneByte :
    (at_ fun c => { c with respFifo := [7#8] }).cdc.respFifo = 7#8 :: [] ∧ start.cdc.respFifo = [] ∧
      start.cdc.fatal = none := by decide

/-- 15 and 16 bytes queued. -/
theorem witness_ParameterWriteAppendsOrDrops :
    (at_ fun c => { c with paramFifo := ramp 15 0 }).cdc.paramFifo.length < 16 ∧
      16 ≤ (at_ fun c => { c with paramFifo := ramp 16 0 }).cdc.paramFifo.length ∧ start.cdc.fatal = none := by decide

theorem witness_InterruptFlagReadInspectsTheFront :
    (at_ fun c => { c with irqFifo := [3#3, 2#3] }).cdc.irqFifo = 3#3 :: [2#3] ∧ start.cdc.irqFifo = [] ∧
      start.cdc.fatal = none := by decide

/-- Bit 7 clear; set with the buffer absent or just drained; set one byte before. -/
theorem witness_RequestAdoptsOnlyWhenDrained :
    (0x7F#8).getLsbD 7 = false ∧ (0x80#8).getLsbD 7 = true ∧ start.cdc.active = none ∧
      payloadLen testConfig start.cdc ≤ 2048 ∧ 2047 < payloadLen testConfig start.cdc ∧
      (at_ fun c => { c with active := some sector0, cursor := 2047 }).cdc.active ≠ none := by
  refine ⟨by decide, by decide, rfl, by decide, by decide, ?_⟩
  intro h
  cases h

/-- Seeking; Reading and Playing at the least countdown with no sector due, in TickWithNoSectorDue. -/
theorem witness_TickWithNoSectorDue :
    start.cfg.driveBits.wellFormed = true ∧
      ((0x42#8).getLsbD specDriveBits.reading = false ∧ (0x42#8).getLsbD specDriveBits.playing = false) ∧
      onlyState (at_ fun c => { c with drive := 0x22#8 }) .reading ∧
      onlyState (at_ fun c => { c with drive := 0x82#8 }) .playing ∧
      2 ≤ (at_ fun c => { c with drive := 0x22#8, countdown := 2 }).cdc.countdown ∧ start.cdc.fatal = none := by decide

/-- Full queues included. -/
theorem witness_TickFetchesTheSectorThatIsDue :
    start.cfg.driveBits.wellFormed = true ∧
      (at_ fun c => { c with drive := 0x22#8, countdown := 1, respFifo := ramp 16 0 }).cdc.fatal = none ∧
      onlyState (at_ fun c => { c with drive := 0x22#8, countdown := 1, respFifo := ramp 16 0 }) .reading ∧
      (at_ fun c => { c with drive := 0x22#8, countdown := 1, respFifo := ramp 16 0 }).cdc.countdown = 1 ∧
      (at_ fun c => { c with drive := 0x22#8, countdown := 1, respFifo := ramp 16 0 }).cdc.respFifo.length ≤ 16 ∧
      start.cdc.irqFifo.length ≤ 16 := by decide

/-- Reading with an enabled code in front, all of a run of ticks waiting: for EnabledFrontCodeRefiresEveryTick and
SectorIsFetchedEveryPeriod. -/
def ticking (n : Nat) : State :=
  { at_ (fun c => { c with drive := 0x22#8, irqFifo := [3#3], irqEnable := 0x1F#8 }) with
    inbox := List.replicate n (.event 0#2) }

theorem witness_EnabledFrontCodeRefiresEveryTick :
    (ticking 4).cdc.fatal = none ∧ (ticking 4).inbox = List.replicate 4 (.event 0#2) ∧
      frontEnabled (ticking 4).cdc = true := by decide
theorem witness_SectorIsFetchedEveryPeriod :
    (ticking 4).inbox = List.replicate 4 (.event 0#2) ∧ (ticking 4).cfg.driveBits.wellFormed = true ∧
      onlyState (ticking 4) .reading ∧
      1 ≤ (ticking 4).cdc.countdown ∧ (ticking 4).cdc.countdown ≤ (ticking 4).cfg.sectorPeriod := by decide

/-- One byte of room, and none. -/
theorem witness_PushAppendsWithinTheCapacity :
    (at_ fun c => { c with respFifo := ramp 15 0 }).cdc.respFifo.length ≤ 16 ∧
      (at_ fun c => { c with respFifo := ramp 16 0 }).cdc.respFifo.length ≤ 16 ∧ start.cdc.irqFifo.length ≤ 16 := by
  decide

/-- The last of two response bytes. -/
theorem witness_ResponsesComeOutInPushOrder :
    1 < (at_ fun c => { c with respFifo := [0x02#8, 0x22#8] }).cdc.respFifo.length ∧ start.cdc.fatal = none ∧
      decodeRead start.cfg.encodings 1#2 start.cdc.index = .ok (.rdResp 0#2) ∧
      ({ start with inbox := List.replicate 2 (.memRead (start.cfg.cdromBase + (1#2).toNat) 1) } : State).inbox =
        List.replicate (1 + 1) (.memRead (start.cfg.cdromBase + (1#2).toNat) 1) := by decide

/-- An operation that changes `active`, and one that changes `cursor`. -/
theorem witness_ActiveBufferHasOnlyItsWriters :
    (∃ t, exec (.wrReq 0x80#8) (at_ fun c => { c with rawSector := some sector0 }) = .next t ∧
      t.cdc.active ≠ start.cdc.active) ∧
    (∃ t, exec .rdDataWord (at_ fun c => { c with active := some sector0 }) = .next t ∧ t.cdc.cursor ≠ 0) := by
  refine ⟨⟨_, rfl, ?_⟩, ⟨_, rfl, by decide⟩⟩
  intro h
  cases h

/-- An operation that changes each latch of the statement (nothing changes `adpcmEmpty`), and one, a write of the
command register, that changes three. -/
theorem witness_EachLatchHasOnlyItsWriters :
    (∃ t, exec (.wrIndex 0#2 0x01#8) start = .next t ∧ t.cdc.index ≠ start.cdc.index) ∧
    (∃ t, exec (.wrIrqen 0x1F#8) start = .next t ∧ t.cdc.irqEnable ≠ start.cdc.irqEnable) ∧
    (∃ t, exec (.wrCmd 0x03#8) (at_ fun c => { c with seekTarget := 5 }) = .next t ∧
      t.cdc.busy ≠ start.cdc.busy ∧ t.cdc.drive ≠ start.cdc.drive ∧ t.cdc.readPos ≠ start.cdc.readPos) ∧
    (∃ t, exec .setmode (at_ fun c => { c with paramFifo := [0x20#8] }) = .next t ∧ t.cdc.mode ≠ start.cdc.mode) ∧
    (∃ t, exec .mute start = .next t ∧ t.cdc.mute ≠ start.cdc.mute) ∧
    (∃ t, exec .setloc (at_ fun c => { c with paramFifo := [0x00#8, 0x02#8, 0x01#8] }) = .next t ∧
      t.cdc.seekTarget ≠ start.cdc.seekTarget) ∧
    (∃ t, exec .tick (ticking 0) = .next t ∧ t.cdc.countdown ≠ (ticking 0).cdc.countdown) ∧
    (∃ t, exec .tick (at_ fun c => { c with drive := 0x22#8, countdown := 1 }) = .next t ∧
      t.cdc.rawSector.isSome = true ∧ start.cdc.rawSector.isSome = false) ∧ Instr.tick ≠ .reset :=
  ⟨⟨_, rfl, by decide⟩, ⟨_, rfl, by decide⟩, ⟨_, rfl, by decide⟩, ⟨_, rfl, by decide⟩, ⟨_, rfl, by decide⟩,
    ⟨_, rfl, by decide⟩, ⟨_, rfl, by decide⟩, ⟨_, rfl, by decide⟩, by decide⟩

/-- For ConversionsFollowTheirFormulas and PositionsRoundTrip, at the edges. -/
theorem witness_conversions :
    (99 ≤ 99) ∧ ((0x99#8).toNat / 16 ≤ 9 ∧ (0x99#8).toNat % 16 ≤ 9) ∧ (-150 ≤ (-150 : Int)) ∧ (-151 : Int) < -150 ∧
      ({ m := 0, s := 59, f := 74 } : Msf).s < 60 ∧ ({ m := 0, s := 59, f := 74 } : Msf).f < 75 := by decide

/-- A record that meets the invariant has only small facts to show. -/
theorem start_reset_ok : CdcOk testConfig (Cdc.reset testConfig) where
  queues_bounded := by decide
  one_state_bit := by decide
  countdown_in_range := by decide
  cursor_bounded := by decide
  codes_known := nofun
  mode_supported := by decide
  adpcm_clear := by decide
  flags_clear := by decide

/-- Two ticks to come while Reading meet the invariant, and a step is taken: for StepKeepsTheInvariant and
StepKeepsParametersAndProvider. -/
theorem witness_StepKeepsTheInvariant : (ticking 2).Inv ∧ ∃ t, step (ticking 2) = .next t := by
  refine ⟨⟨⟨by decide, by decide, by decide, by decide, by decide, by decide, start_reset_ok, by decide⟩,
    by decide, ?_⟩, ⟨_, rfl⟩⟩
  exact { queues_bounded := by decide, one_state_bit := by decide, countdown_in_range := by decide,
          cursor_bounded := by decide,
          codes_known := fun c hc => .inr (.inr (.inl (List.mem_singleton.mp hc))),
          mode_supported := by decide, adpcm_clear := by decide, flags_clear := by decide }

/-- One that goes on, and one that stops. -/
theorem witness_MuteAndOutputsInfluenceNothing :
    (∃ t, exec .getstat start = .next t) ∧
      exec .tick (at_ fun c => { c with fatal := some .paramStarvation }) = .fault (.noStep .paramStarvation) :=
  ⟨⟨_, rfl⟩, rfl⟩

end Sys2Proof.Tests
end

/-! ### The encoding, by format -/

namespace Sys2Proof

/-- The operations by the table they come from: R96 with its default row, register 0, the rows of the register
map (R92), and R93. -/
inductive InstrForm : Instr → Prop where
  | command (c : CommandName) : InstrForm (commandInstr c)
  | unknown (op : Byte) : InstrForm (.unknown op)
  | rdStat (ii : Index) : InstrForm (.rdStat ii)
  | wrIndex (ii : Index) (v : Byte) : InstrForm (.wrIndex ii v)
  | mappedRead (row : ReadRow) : InstrForm (readInstr row)
  | mappedWrite (row : WriteRow) (v : Byte) : InstrForm (writeInstr v row)
  | tick : InstrForm .tick
  | rdDataWord : InstrForm .rdDataWord
  | reset : InstrForm .reset

/-- Every operation has a form, so a proof about all of them has nine cases. -/
theorem instrForm (i : Instr) : InstrForm i := by
  cases i with
  | getstat => exact .command .getstat
  | setloc => exact .command .setloc
  | play => exact .command .play
  | readN => exact .command .readN
  | motorOn => exact .command .motorOn
  | stop => exact .command .stop
  | pause => exact .command .pause
  | init => exact .command .init
  | mute => exact .command .mute
  | demute => exact .command .demute
  | setmode => exact .command .setmode
  | getparam => exact .command .getparam
  | getTN => exact .command .getTN
  | getTD => exact .command .getTD
  | seekL => exact .command .seekL
  | test => exact .command .test
  | getID => exact .command .getID
  | readS => exact .command .readS
  | unknown op => exact .unknown op
  | rdStat ii => exact .rdStat ii
  | wrIndex ii v => exact .wrIndex ii v
  | wrCmd v => exact .mappedWrite .command v
  | rdResp ii => exact .mappedRead (.response ii)
  | wrParam v => exact .mappedWrite .parameter v
  | rdData ii => exact .mappedRead (.data ii)
  | wrIrqen v => exact .mappedWrite .irqEnable v
  | rdIrqen i => exact .mappedRead (.irqEnable i)
  | wrIrqack v => exact .mappedWrite .irqAck v
  | rdIrqflag i => exact .mappedRead (.irqFlag i)
  | wrReq v => exact .mappedWrite .request v
  | wrNop11 v => exact .mappedWrite .nop11 v
  | wrNop12 v => exact .mappedWrite .nop12 v
  | wrNop13 v => exact .mappedWrite .nop13 v
  | wrNop22 v => exact .mappedWrite .nop22 v
  | wrNop23 v => exact .mappedWrite .nop23 v
  | wrNop32 v => exact .mappedWrite .nop32 v
  | wrNop33 v => exact .mappedWrite .nop33 v
  | tick => exact .tick
  | rdDataWord => exact .rdDataWord
  | reset => exact .reset

section
variable {enc : Encodings} {aa ii : Index} {v : Byte}

/-! The encoder, form by form. -/

@[simp] theorem encode_commandInstr (enc : Encodings) (c : CommandName) :
    encode enc (commandInstr c) = some (.cmd (enc.opcodes.of c)) := by
  cases c <;> rfl

@[simp] theorem encode_readInstr (enc : Encodings) (row : ReadRow) :
    encode enc (readInstr row) = encodeRead enc row := by
  cases row <;> rfl

@[simp] theorem encode_writeInstr (enc : Encodings) (row : WriteRow) (v : Byte) :
    encode enc (writeInstr v row) = encodeWrite enc row v := by
  cases row <;> rfl

/-- A mapped read's encoding is a pair that carries its row. -/
theorem readRow_of_encodeRead {row : ReadRow} {e : Encoded} (h : encodeRead enc row = some e) :
    ∃ aa ii, e = .read aa ii ∧ enc.readRow aa ii = some row := by
  obtain ⟨p, hp, rfl⟩ := Option.map_eq_some_iff.mp h
  exact ⟨p.1, p.2, rfl, readRow_of_readPair hp⟩

/-- A mapped write's encoding is a pair that carries its row, with the data byte. -/
theorem writeRow_of_encodeWrite {row : WriteRow} {e : Encoded} (h : encodeWrite enc row v = some e) :
    ∃ aa ii, e = .write aa ii v ∧ enc.writeRow aa ii = some row := by
  obtain ⟨p, hp, rfl⟩ := Option.map_eq_some_iff.mp h
  exact ⟨p.1, p.2, rfl, writeRow_of_writePair hp⟩

/-- With no row shared, the encoding of a pair's read row is a read of that pair. -/
theorem encodeRead_of_readRow {row : ReadRow} (h : OneToOne enc.readRow) (hr : enc.readRow aa ii = some row) :
    encodeRead enc row = some (.read aa ii) := by
  simp [encodeRead, readPair_of_readRow h hr]

/-- With no row shared, the encoding of a pair's write row is a write of that pair. -/
theorem encodeWrite_of_writeRow {row : WriteRow} (h : OneToOne enc.writeRow) (hr : enc.writeRow aa ii = some row) :
    encodeWrite enc row v = some (.write aa ii v) := by
  simp [encodeWrite, writePair_of_writeRow h hr]

/-! The decoder, form by form. -/

theorem decodeCommand_of_some {o : Opcodes} {op : Byte} {c : CommandName} (h : lookupCommand o op = some c) :
    decodeCommand o op = commandInstr c := by
  simp [decodeCommand, h]

theorem decodeCommand_of_none {o : Opcodes} {op : Byte} (h : lookupCommand o op = none) :
    decodeCommand o op = .unknown op := by
  simp [decodeCommand, h]

@[simp] theorem decodeRead_zero (enc : Encodings) (ii : Index) : decodeRead enc 0#2 ii = .ok (.rdStat ii) := rfl

theorem decodeRead_of_some {row : ReadRow} (h : enc.readRow aa ii = some row) :
    decodeRead enc aa ii = .ok (readInstr row) := by
  have ha : aa ≠ 0#2 := by rintro rfl; simp [readRow_of_zero] at h
  simp [decodeRead, ha, h]

theorem decodeRead_of_none (ha : aa ≠ 0#2) (h : enc.readRow aa ii = none) :
    decodeRead enc aa ii = .error (.unmappedRead aa ii) := by
  simp [decodeRead, ha, h]

@[simp] theorem decodeWrite_zero (enc : Encodings) (ii : Index) (v : Byte) :
    decodeWrite enc 0#2 ii v = .wrIndex ii v := rfl

theorem decodeWrite_of_some {row : WriteRow} (h : enc.writeRow aa ii = some row) :
    decodeWrite enc aa ii v = writeInstr v row := by
  simp [decodeWrite, h]

/-! Well-formedness and completeness. -/

theorem Encodings.wellFormed_iff :
    enc.wellFormed = true ↔ enc.opcodes.wellFormed = true ∧ OneToOne enc.writeRow ∧ OneToOne enc.readRow := by
  simp only [Encodings.wellFormed, Bool.and_eq_true, decide_eq_true_eq, and_assoc]

@[simp] theorem wellFormed_unknown {op : Byte} :
    (Instr.unknown op).wellFormed enc = true ↔ lookupCommand enc.opcodes op = none :=
  Option.isNone_iff_eq_none

@[simp] theorem wellFormed_commandInstr (enc : Encodings) (c : CommandName) :
    (commandInstr c).wellFormed enc = true := by
  cases c <;> rfl

@[simp] theorem wellFormed_readInstr (enc : Encodings) (row : ReadRow) : (readInstr row).wellFormed enc = true := by
  cases row <;> rfl

@[simp] theorem wellFormed_writeInstr (enc : Encodings) (row : WriteRow) (v : Byte) :
    (writeInstr v row).wellFormed enc = true := by
  cases row <;> rfl

/-- A complete map has a pair for every write row. -/
theorem writePair_isSome (h : enc.complete = true) (row : WriteRow) : (enc.writePair row).isSome = true := by
  simp only [Encodings.complete, Bool.and_eq_true, List.all_eq_true] at h
  obtain ⟨⟨⟨hports, hnops⟩, -⟩, -⟩ := h
  cases row with
  | command | parameter | irqEnable | irqAck | request => exact hports _ (by decide)
  | nop11 | nop12 | nop13 | nop22 | nop23 | nop32 | nop33 => exact hnops _ (by decide)

/-- A complete map has a pair for every read row. -/
theorem readPair_isSome (h : enc.complete = true) (row : ReadRow) : (enc.readPair row).isSome = true := by
  simp only [Encodings.complete, Bool.and_eq_true, List.all_eq_true] at h
  obtain ⟨⟨-, hports⟩, hirq⟩ := h
  cases row with
  | response i => exact (hports i (by revert i; decide)).1
  | data i => exact (hports i (by revert i; decide)).2
  | irqEnable i => exact (hirq i (by revert i; decide)).1
  | irqFlag i => exact (hirq i (by revert i; decide)).2

/-! ### The round trips -/

/-- The decoder undoes the encoder. Only the opcodes have to differ: a pair that the encoder finds carries the row
it looked for. -/
theorem decode_of_encode {i : Instr} {e : Encoded} (ho : enc.opcodes.wellFormed = true)
    (hi : i.wellFormed enc = true) (he : encode enc i = some e) : decode enc e = .ok i := by
  cases instrForm i with
  | command c =>
    obtain rfl : Encoded.cmd (enc.opcodes.of c) = e := by simpa using he
    exact congrArg Except.ok (decodeCommand_of_some (lookupCommand_of ho c))
  | unknown op =>
    obtain rfl : Encoded.cmd op = e := by simpa [encode] using he
    exact congrArg Except.ok (decodeCommand_of_none (wellFormed_unknown.mp hi))
  | mappedRead row =>
    rw [encode_readInstr] at he
    obtain ⟨aa, ii, rfl, hr⟩ := readRow_of_encodeRead he
    exact decodeRead_of_some hr
  | mappedWrite row v =>
    rw [encode_writeInstr] at he
    obtain ⟨aa, ii, rfl, hr⟩ := writeRow_of_encodeWrite he
    exact congrArg Except.ok (decodeWrite_of_some hr)
  | rdStat | wrIndex | tick | rdDataWord | reset =>
    cases he
    rfl

/-- A complete map leaves no operation without an encoding. -/
theorem exists_encode_of_complete (h : enc.complete = true) (i : Instr) : ∃ e, encode enc i = some e := by
  cases instrForm i with
  | mappedRead row =>
    obtain ⟨p, hp⟩ := Option.isSome_iff_exists.mp (readPair_isSome h row)
    exact ⟨.read p.1 p.2, by simp [encodeRead, hp]⟩
  | mappedWrite row v =>
    obtain ⟨p, hp⟩ := Option.isSome_iff_exists.mp (writePair_isSome h row)
    exact ⟨.write p.1 p.2 v, by simp [encodeWrite, hp]⟩
  | command c => exact ⟨_, encode_commandInstr enc c⟩
  | unknown | rdStat | wrIndex | tick | rdDataWord | reset => exact ⟨_, rfl⟩

/-- The operation of a command byte is well-formed and encodes to that byte, whatever the opcode numbers. -/
theorem encode_of_decodeCommand (enc : Encodings) (op : Byte) :
    encode enc (decodeCommand enc.opcodes op) = some (.cmd op) ∧
      (decodeCommand enc.opcodes op).wellFormed enc = true := by
  cases hl : lookupCommand enc.opcodes op with
  | none => simpa [decodeCommand_of_none hl, encode] using hl
  | some c => simp [decodeCommand_of_some hl, of_lookupCommand hl]

/-- The operation of a read that has one is well-formed and encodes to that read. -/
theorem encode_of_decodeRead {i : Instr} (h : OneToOne enc.readRow) (hd : decodeRead enc aa ii = .ok i) :
    encode enc i = some (.read aa ii) ∧ i.wellFormed enc = true := by
  by_cases ha : aa = 0#2
  · subst ha
    cases hd
    exact ⟨rfl, rfl⟩
  · cases hr : enc.readRow aa ii with
    | none => simp [decodeRead_of_none ha hr] at hd
    | some row =>
      obtain rfl : readInstr row = i := by simpa [decodeRead_of_some hr] using hd
      simp [encodeRead_of_readRow h hr]

/-- The operation of a write is well-formed and encodes to that write. -/
theorem encode_of_decodeWrite (h : OneToOne enc.writeRow) (aa ii : Index) (v : Byte) :
    encode enc (decodeWrite enc aa ii v) = some (.write aa ii v) ∧ (decodeWrite enc aa ii v).wellFormed enc = true := by
  by_cases ha : aa = 0#2
  · subst ha
    exact ⟨rfl, rfl⟩
  · obtain ⟨row, hr⟩ := writeRow_isSome (e := enc) (ii := ii) ha
    simp [decodeWrite_of_some hr, encodeWrite_of_writeRow h hr]

/-- The operation of an event code that has one is well-formed and encodes to that code. -/
theorem encode_of_decodeEvent (enc : Encodings) {code : BitVec 2} {i : Instr} (hd : decodeEvent code = .ok i) :
    encode enc i = some (.evt code) ∧ i.wellFormed enc = true := by
  have hcode := (by decide : ∀ c : BitVec 2, c = 0#2 ∨ c = 1#2 ∨ c = 2#2 ∨ c = 3#2) code
  rcases hcode with rfl | rfl | rfl | rfl <;> cases hd <;> exact ⟨rfl, rfl⟩

/-- The encoder undoes the decoder, and the decoder answers well-formed operations only. -/
theorem encode_of_decode {e : Encoded} {i : Instr} (h : enc.wellFormed = true) (hd : decode enc e = .ok i) :
    encode enc i = some e ∧ i.wellFormed enc = true := by
  obtain ⟨-, hw, hr⟩ := Encodings.wellFormed_iff.mp h
  cases e with
  | cmd op =>
    cases hd
    exact encode_of_decodeCommand enc op
  | read aa ii => exact encode_of_decodeRead hr hd
  | write aa ii v =>
    cases hd
    exact encode_of_decodeWrite hw aa ii v
  | evt code => exact encode_of_decodeEvent enc hd

end

/-- Settles O1: each operation by its form, and the spec's own tables by evaluation. -/
theorem decodeOfEncodeGivesTheInstruction : Obligations.DecodeOfEncodeGivesTheInstruction := by
  refine ⟨fun enc i henc hi => ⟨fun e he => ?_, fun hc => exists_encode_of_complete hc i⟩, by decide, by decide⟩
  obtain ⟨ho, -, -⟩ := Encodings.wellFormed_iff.mp henc
  exact decode_of_encode ho hi he

/-- Settles O2: each encoding by its format; a shared row would be two meanings, which well-formedness excludes. -/
theorem encodeOfDecodeGivesTheEncoding : Obligations.EncodeOfDecodeGivesTheEncoding :=
  fun _ _ _ henc hd => encode_of_decode henc hd

end Sys2Proof

/-! ### The step on an access of the window, and reset -/

namespace Sys2Proof.Machine

section
variable {s : State} {t : Transaction} {rest : List Transaction}

/-- The address of offset `a` is in the window, at that offset. -/
@[simp] theorem windowOffset_base_add (cfg : Config) (a : Index) :
    windowOffset cfg (cfg.cdromBase + a.toNat) = some a := by
  have ha := a.isLt
  simp [windowOffset, ha]

@[simp] theorem route_byteRead (s : State) (a : Index) :
    route s (.memRead (s.cfg.cdromBase + a.toNat) 1) = .ok (.read a s.cdc.index) := by
  simp [route]

@[simp] theorem route_byteWrite (s : State) (a : Index) (v : Byte) :
    route s (.memWrite (s.cfg.cdromBase + a.toNat) [v]) = .ok (.write a s.cdc.index v) := by
  simp [route]

@[simp] theorem route_wordRead (s : State) : route s (.memRead (s.cfg.cdromBase + 2) 4) = .ok (.evt 1#2) := by
  have h : windowOffset s.cfg (s.cfg.cdromBase + 2) = some 2#2 := windowOffset_base_add s.cfg 2#2
  simp [route, h]

/-- The front transaction that is an encoding of `i` is run as `i`. -/
theorem step_of_decode {e : Encoded} {i : Instr} (h : s.inbox = t :: rest) (hr : route s t = .ok e)
    (hd : decode s.cfg.encodings e = .ok i) : step s = exec i { s with inbox := rest } := by
  simp [step, h, fetch, hr, hd]

theorem execUnmappedRead_of_clear (aa ii : Index) (h : s.cdc.fatal = none) :
    execUnmappedRead aa ii s =
      .next { s with readValue := some (.byte 0x00#8), log := s.log ++ [.ignoredRead aa ii] } :=
  operate_of_clear h _

/-- The front transaction that is a read the map leaves out is logged and answered, and not run (R68). -/
theorem step_of_unmappedRead {e : Encoded} {aa ii : Index} (h : s.inbox = t :: rest) (hr : route s t = .ok e)
    (hd : decode s.cfg.encodings e = .error (.unmappedRead aa ii)) :
    step s = execUnmappedRead aa ii { s with inbox := rest } := by
  simp [step, h, fetch, hr, hd]

end

/-- Settles O6: each access is routed to its encoding, and the step runs what the encoding decodes to. -/
theorem windowAccessSelectsTheOperation : Obligations.WindowAccessSelectsTheOperation := by
  refine ⟨?byteRead, ?unmappedRead, ?byteWrite, ?wordRead, ?tick, ?dataWordEvent, ?reset⟩
  case byteRead => exact fun s a i rest h hd => step_of_decode h (route_byteRead s a) hd
  case unmappedRead =>
    intro s a rest h hf ha hr
    rw [step_of_unmappedRead h (route_byteRead s a) (decodeRead_of_none ha hr)]
    exact execUnmappedRead_of_clear a s.cdc.index hf
  case byteWrite => exact fun s a v rest h => step_of_decode h (route_byteWrite s a v) rfl
  case wordRead => exact fun s rest h => step_of_decode h (route_wordRead s) rfl
  case tick => exact fun s rest h => step_of_decode h rfl rfl
  case dataWordEvent => exact fun s rest h => step_of_decode h rfl rfl
  case reset => exact fun s rest h => step_of_decode h rfl rfl

/-- `RESET` has no test of the latch: it goes on from every state (R340). -/
theorem exec_reset (s : State) : exec .reset s = .next s.resetCdc := rfl

/-- The state after creation is what reset makes of it. -/
theorem resetCdc_reset : State.reset.resetCdc = State.reset := rfl

/-- Settles O56: what `Cdc.reset` holds, for any configuration and for the spec's values. -/
theorem resetLeavesTheResetRecord : Obligations.ResetLeavesTheResetRecord := by
  refine ⟨?anyConfig, rfl, ?atReset, rfl, rfl, rfl, rfl, rfl, rfl⟩
  case anyConfig =>
    rintro s v rfl
    exact exec_reset s
  case atReset => rw [exec_reset, resetCdc_reset]

end Sys2Proof.Machine

/-! ### The operations as updates

An operation but `RESET` is an update of the state behind the latch test. Which update it is depends on the opcode
numbers and on nothing else of the state. -/

namespace Sys2Proof.Machine

/-- The body of a command, by its name. -/
def commandBody : CommandName → State → State
  | .getstat => bodyGetstat
  | .setloc => bodySetloc
  | .play => bodyPlay
  | .readN => bodyReadN
  | .motorOn => bodyMotorOn
  | .stop => bodyStop
  | .pause => bodyPause
  | .init => bodyInit
  | .mute => bodyMute
  | .demute => bodyDemute
  | .setmode => bodySetmode
  | .getparam => bodyGetparam
  | .getTN => bodyGetTN
  | .getTD => bodyGetTD
  | .seekL => bodySeekL
  | .test => bodyTest
  | .getID => bodyGetID
  | .readS => bodyReadS

theorem execCommand_eq (n : CommandName) (s : State) : execCommand n s = operate (dispatch (commandBody n)) s := by
  cases n <;> rfl

theorem exec_commandInstr (n : CommandName) (s : State) :
    exec (commandInstr n) s = operate (dispatch (commandBody n)) s := by
  cases n <;> rfl

theorem exec_wrCmd_of_some {s : State} {op : Byte} {n : CommandName}
    (h : lookupCommand s.cfg.encodings.opcodes op = some n) :
    exec (.wrCmd op) s = operate (dispatch (commandBody n)) s := by
  simp only [exec, execWrCmd, h, execCommand_eq]

theorem exec_wrCmd_of_none {s : State} {op : Byte} (h : lookupCommand s.cfg.encodings.opcodes op = none) :
    exec (.wrCmd op) s = operate (dispatch (bodyUnknown op)) s := by
  simp only [exec, execWrCmd, h]
  rfl

/-- The operation is the command `n`: by its own row, or as the byte written to the command register. -/
def Issues (o : Opcodes) (i : Instr) (n : CommandName) : Prop :=
  i = commandInstr n ∨ ∃ op, i = .wrCmd op ∧ lookupCommand o op = some n

/-- The update of each operation but `RESET`, under the opcode numbers `o`. -/
inductive Meaning (o : Opcodes) : Instr → (State → State) → Prop where
  | command {i : Instr} (n : CommandName) (h : Issues o i n) : Meaning o i (dispatch (commandBody n))
  | unknown (op : Byte) : Meaning o (.unknown op) (dispatch (bodyUnknown op))
  | unknownByte {op : Byte} (h : lookupCommand o op = none) : Meaning o (.wrCmd op) (dispatch (bodyUnknown op))
  | rdStat (ii : Index) : Meaning o (.rdStat ii) fun s => s.answer (.byte (stat s.cfg s.cdc))
  | wrIndex (ii : Index) (v : Byte) :
      Meaning o (.wrIndex ii v) (State.onCdc · fun c => { c with index := v.extractLsb' 0 2 })
  | rdResp (ii : Index) : Meaning o (.rdResp ii) readResponse
  | wrParam (v : Byte) : Meaning o (.wrParam v) (pushParam v)
  | rdData (ii : Index) :
      Meaning o (.rdData ii) fun s => (s.onCdc (dataAdvance s.cfg)).answer (.byte (dataByte s.cfg s.cdc))
  | wrIrqen (v : Byte) : Meaning o (.wrIrqen v) (State.onCdc · fun c => { c with irqEnable := v })
  | rdIrqen (i : BitVec 1) : Meaning o (.rdIrqen i) fun s => s.answer (.byte s.cdc.irqEnable)
  | wrIrqack (v : Byte) : Meaning o (.wrIrqack v) fun s => s.onCdc (acknowledge s.cfg v)
  | rdIrqflag (i : BitVec 1) : Meaning o (.rdIrqflag i) fun s => s.answer (.byte (irqFlag s.cdc))
  | wrReq (v : Byte) : Meaning o (.wrReq v) (request (v.getLsbD 7))
  | ignoredWrite {i : Instr} (aa ii : Index) (v : Byte) (h : ∀ s, exec i s = ignoreWrite aa ii v s) :
      Meaning o i (State.note · (.ignoredWrite aa ii v))
  | tick : Meaning o .tick fun s => sectorPump (deliverInterrupt (beginTick s))
  | rdDataWord : Meaning o .rdDataWord fun s =>
      (s.onCdc fun c => (dataWord s.cfg c).2).answer (.word (dataWord s.cfg s.cdc).1)

/-- Every operation but `RESET` has an update. -/
theorem exists_meaning (o : Opcodes) {i : Instr} (hi : i ≠ .reset) : ∃ f, Meaning o i f := by
  cases instrForm i with
  | command n => exact ⟨_, .command n (.inl rfl)⟩
  | unknown op => exact ⟨_, .unknown op⟩
  | rdStat ii => exact ⟨_, .rdStat ii⟩
  | wrIndex ii v => exact ⟨_, .wrIndex ii v⟩
  | mappedRead row =>
    cases row with
    | response i => exact ⟨_, .rdResp i⟩
    | data i => exact ⟨_, .rdData i⟩
    | irqEnable i => exact ⟨_, .rdIrqen i⟩
    | irqFlag i => exact ⟨_, .rdIrqflag i⟩
  | mappedWrite row v =>
    cases row with
    | command =>
      cases h : lookupCommand o v with
      | none => exact ⟨_, .unknownByte h⟩
      | some n => exact ⟨_, .command n (.inr ⟨v, rfl, h⟩)⟩
    | parameter => exact ⟨_, .wrParam v⟩
    | irqEnable => exact ⟨_, .wrIrqen v⟩
    | irqAck => exact ⟨_, .wrIrqack v⟩
    | request => exact ⟨_, .wrReq v⟩
    | nop11 | nop12 | nop13 | nop22 | nop23 | nop32 | nop33 => exact ⟨_, .ignoredWrite _ _ v fun _ => rfl⟩
  | tick => exact ⟨_, .tick⟩
  | rdDataWord => exact ⟨_, .rdDataWord⟩
  | reset => exact absurd rfl hi

/-- The operation is its update behind the latch test. -/
theorem exec_of_meaning {s : State} {i : Instr} {f : State → State} (h : Meaning s.cfg.encodings.opcodes i f) :
    exec i s = operate f s := by
  cases h with
  | command n h =>
    rcases h with rfl | ⟨op, rfl, h⟩
    · exact exec_commandInstr n s
    · exact exec_wrCmd_of_some h
  | unknownByte h => exact exec_wrCmd_of_none h
  | ignoredWrite aa ii v h => exact h s
  | unknown | rdStat | wrIndex | rdResp | wrParam | rdData | wrIrqen | rdIrqen | wrIrqack | rdIrqflag | wrReq | tick
  | rdDataWord => rfl

/-- All an operation can do when it goes on: reset, or its update from a state with no fatal. -/
theorem exec_cases {i : Instr} {s t : State} (h : exec i s = .next t) :
    (i = .reset ∧ t = s.resetCdc) ∨
      ∃ f, Meaning s.cfg.encodings.opcodes i f ∧ s.cdc.fatal = none ∧ t = f s := by
  by_cases hi : i = .reset
  · subst hi
    rw [exec_reset] at h
    cases h
    exact .inl ⟨rfl, rfl⟩
  · obtain ⟨f, hf⟩ := exists_meaning s.cfg.encodings.opcodes hi
    rw [exec_of_meaning hf, operate_eq_next] at h
    exact .inr ⟨f, hf, h⟩

end Sys2Proof.Machine

/-! ### What an update reads and leaves alone

The mute flag and what has gone out: an update reads none of it and only adds to it (R36, R43, R315); and it keeps the
parameters, the provider and the operations still to come (R44, R76). -/

namespace Sys2Proof.Machine

/-- The mute flag and the record of what has gone out. -/
structure Outputs where
  mute : Bool
  readValue : Option ReadValue
  irqHistory : List IrqEvent
  log : List LogEvent

/-- What an update makes of the outputs: a new mute flag, an answer, raises, log entries. -/
structure Emission where
  set : Option Bool := none
  answer : Option ReadValue := none
  raises : List IrqEvent := []
  notes : List LogEvent := []

def Cdc.withMute (c : Cdc) (m : Bool) : Cdc := { c with mute := m }

def State.outputs (s : State) : Outputs := ⟨s.cdc.mute, s.readValue, s.irqHistory, s.log⟩

def State.withOutputs (s : State) (o : Outputs) : State :=
  { s with cdc := s.cdc.withMute o.mute, readValue := o.readValue, irqHistory := o.irqHistory, log := o.log }

def Outputs.add (o : Outputs) (e : Emission) : Outputs :=
  ⟨e.set.getD o.mute, e.answer.or o.readValue, o.irqHistory ++ e.raises, o.log ++ e.notes⟩

/-- One emission after another. -/
def Emission.followedBy (e e' : Emission) : Emission :=
  ⟨e'.set.or e.set, e'.answer.or e.answer, e.raises ++ e'.raises, e.notes ++ e'.notes⟩

theorem readResponse_nil {s : State} (h : s.cdc.respFifo = []) :
    readResponse s = s.answer (.byte s.cfg.emptyReadValue) := by
  simp [readResponse, h]

theorem readResponse_cons {s : State} {b : Byte} {rest : List Byte} (h : s.cdc.respFifo = b :: rest) :
    readResponse s = (s.onCdc fun c => { c with respFifo := rest }).answer (.byte b) := by
  simp [readResponse, h]

theorem withOutputs_outputs (s : State) : s.withOutputs s.outputs = s := rfl

theorem Outputs.add_empty (o : Outputs) : o.add {} = o := by
  simp [Outputs.add]

theorem Outputs.add_followedBy (o : Outputs) (e e' : Emission) : o.add (e.followedBy e') = (o.add e).add e' := by
  simp only [Outputs.add, Emission.followedBy, List.append_assoc, Option.or_assoc]
  cases e'.set <;> rfl

/-- An update that reads none of the outputs, adds to them, and keeps what is fixed and what is still to come. -/
structure Confined (f : State → State) : Prop where
  keeps : ∀ s, (f s).cfg = s.cfg ∧ (f s).disc = s.disc ∧ (f s).inbox = s.inbox
  emits : ∀ s, ∃ e : Emission, ∀ o : Outputs, f (s.withOutputs o) = (f s).withOutputs (o.add e)

namespace Confined

variable {f g : State → State}

theorem id : Confined fun s => s := ⟨fun _ => ⟨rfl, rfl, rfl⟩, fun s => ⟨{}, fun o => by rw [o.add_empty]⟩⟩

theorem comp (hg : Confined g) (hf : Confined f) : Confined fun s => g (f s) where
  keeps s := by
    obtain ⟨hc, hd, hi⟩ := hg.keeps (f s)
    obtain ⟨hc', hd', hi'⟩ := hf.keeps s
    exact ⟨hc.trans hc', hd.trans hd', hi.trans hi'⟩
  emits s := by
    obtain ⟨e, he⟩ := hf.emits s
    obtain ⟨e', he'⟩ := hg.emits (f s)
    exact ⟨e.followedBy e', fun o => by rw [he, he', o.add_followedBy]⟩

/-- What the update does may depend on everything but the outputs. -/
theorem of_view (h : ∀ s : State, ∃ g, Confined g ∧ ∀ o, f (s.withOutputs o) = g (s.withOutputs o)) :
    Confined f where
  keeps s := by
    obtain ⟨g, hg, hfg⟩ := h s
    have hs : f s = g s := hfg s.outputs
    rw [hs]
    exact hg.keeps s
  emits s := by
    obtain ⟨g, hg, hfg⟩ := h s
    have hs : f s = g s := hfg s.outputs
    simp only [hfg, hs]
    exact hg.emits s

theorem adds (hf : Confined f) (s : State) : ∃ e : Emission, (f s).outputs = s.outputs.add e ∧
    ∀ o : Outputs, f (s.withOutputs o) = (f s).withOutputs (o.add e) := by
  obtain ⟨e, he⟩ := hf.emits s
  have hs := he s.outputs
  rw [withOutputs_outputs] at hs
  exact ⟨e, congrArg State.outputs hs, he⟩

theorem ite {p : State → Prop} [DecidablePred p] (hp : ∀ s o, p (s.withOutputs o) ↔ p s) (hf : Confined f)
    (hg : Confined g) : Confined fun s => if p s then f s else g s :=
  of_view fun s => by
    by_cases h : p s
    · exact ⟨f, hf, fun o => if_pos ((hp s o).mpr h)⟩
    · exact ⟨g, hg, fun o => if_neg (mt (hp s o).mp h)⟩

/-! The updates of the model, in the order of its definitions. -/

theorem onCdc {F : Cdc → Cdc} (set : Option Bool) (hF : ∀ c m, F (c.withMute m) = (F c).withMute (set.getD m)) :
    Confined (State.onCdc · F) where
  keeps _ := ⟨rfl, rfl, rfl⟩
  emits s := by
    refine ⟨{ set }, fun o => ?_⟩
    simp [State.onCdc, State.withOutputs, Outputs.add, hF]

theorem answer (v : ReadValue) : Confined (State.answer · v) :=
  ⟨fun _ => ⟨rfl, rfl, rfl⟩, fun s => ⟨{ answer := some v }, fun o => by
    simp [State.answer, State.withOutputs, Outputs.add]⟩⟩

theorem note (e : LogEvent) : Confined (State.note · e) :=
  ⟨fun _ => ⟨rfl, rfl, rfl⟩, fun s => ⟨{ notes := [e] }, fun o => by
    simp [State.note, State.withOutputs, Outputs.add]⟩⟩

theorem raiseInterrupt : Confined State.raiseInterrupt :=
  ⟨fun _ => ⟨rfl, rfl, rfl⟩, fun s => ⟨{ raises := [⟨s.cfg.irqLineId, s.ticks⟩] }, fun o => by
    simp [State.raiseInterrupt, State.withOutputs, Outputs.add]⟩⟩

theorem raiseFatal (k : FatalKind) : Confined (State.raiseFatal · k) := .onCdc none fun _ _ => rfl

theorem resetCdc : Confined State.resetCdc :=
  of_view fun s => ⟨_, .onCdc (F := fun _ => Cdc.reset s.cfg) (some s.cfg.resetValues.mute) fun _ _ => rfl,
    fun _ => rfl⟩

theorem pushCode (code : IrqCode) : Confined (pushCode code) :=
  .ite (fun _ _ => Iff.rfl) (.onCdc none fun _ _ => rfl) (.note _)

theorem pushByte (b : Byte) : Confined (Machine.pushByte · b) :=
  .ite (fun _ _ => Iff.rfl) (.onCdc none fun _ _ => rfl) (.note _)

theorem pushBytes (bytes : List Byte) : Confined (bytes.foldl Machine.pushByte ·) := by
  induction bytes with
  | nil => exact .id
  | cons b bs ih => exact ih.comp (.pushByte b)

theorem push (code : IrqCode) (bytes : List Byte) : Confined (push code bytes) := (pushBytes bytes).comp (pushCode code)

theorem pushAck : Confined pushAck := of_view fun s => ⟨_, .push s.cfg.intAck [s.cdc.drive], fun _ => rfl⟩
theorem pushDone : Confined pushDone := of_view fun s => ⟨_, .push s.cfg.intDone [s.cdc.drive], fun _ => rfl⟩
theorem errorResponse : Confined errorResponse :=
  of_view fun s => ⟨_, .push s.cfg.intError errUnknownPayload, fun _ => rfl⟩

theorem pushParam (b : Byte) : Confined (pushParam b) :=
  .ite (fun _ _ => Iff.rfl) (.onCdc none fun _ _ => rfl) (.note _)

theorem request (b : Bool) : Confined (request b) :=
  .ite (fun _ _ => Iff.rfl) (.ite (fun _ _ => Iff.rfl) .id (.onCdc none fun _ _ => rfl)) (.onCdc none fun _ _ => rfl)

theorem popParam {k : Byte → State → State} (hk : ∀ b, Confined (k b)) : Confined (popParam k) :=
  of_view fun s => by
    cases h : s.cdc.paramFifo with
    | nil => exact ⟨_, .raiseFatal .paramStarvation, fun o => popParam_nil (s := s.withOutputs o) h k⟩
    | cons b rest =>
      exact ⟨_, (hk b).comp (.onCdc none fun _ _ => rfl), fun o => popParam_cons (s := s.withOutputs o) h k⟩

theorem clearResponses : Confined clearResponses := .onCdc none fun _ _ => rfl
theorem finishCommand : Confined finishCommand := .onCdc none fun _ _ => rfl

theorem dispatch {body : State → State} (h : Confined body) : Confined (dispatch body) :=
  (Confined.ite (p := fun t => t.cdc.fatal.isSome) (fun _ _ => Iff.rfl) .id .finishCommand).comp
    (h.comp .clearResponses)

theorem beginTick : Confined beginTick :=
  ⟨fun _ => ⟨rfl, rfl, rfl⟩, fun s => ⟨{}, fun o => by rw [o.add_empty]; rfl⟩⟩

theorem deliverInterrupt : Confined deliverInterrupt := .ite (fun _ _ => Iff.rfl) .raiseInterrupt .id

theorem checkSync (pos : Int) (sec : Sector) : Confined (checkSync pos sec) :=
  of_view fun s => by
    cases h : expectedSync s.cfg sec.type with
    | none => exact ⟨_, .id, fun o => by simp only [Machine.checkSync, State.withOutputs, h]⟩
    | some sync =>
      exact ⟨_, .ite (p := fun _ => sec.bytes.toList.take syncBytes = sync.toList) (fun _ _ => Iff.rfl) .id
        (.note (.syncMismatch pos)), fun o => by simp only [Machine.checkSync, State.withOutputs, h]⟩

theorem announceData (sec : Sector) : Confined (announceData sec) :=
  .ite (fun _ _ => Iff.rfl) (of_view fun s => ⟨_, .push s.cfg.intDataReady [s.cdc.drive], fun _ => rfl⟩) .id

theorem fetchSector : Confined fetchSector :=
  of_view fun s =>
    have hstore : Confined (State.onCdc · fun c =>
        { c with rawSector := some (readSectorAt s.disc s.cdc.readPos).bytes, readPos := c.readPos + 1 }) :=
      .onCdc none fun _ _ => rfl
    have hrest : Confined fun t =>
        if (readSectorAt s.disc s.cdc.readPos).type = .invalid then t
        else Machine.announceData (readSectorAt s.disc s.cdc.readPos)
          (Machine.checkSync s.cdc.readPos (readSectorAt s.disc s.cdc.readPos) t) :=
      .ite (fun _ _ => Iff.rfl) .id ((announceData _).comp (checkSync _ _))
    ⟨_, hrest.comp hstore, fun _ => rfl⟩

theorem sectorPump : Confined sectorPump :=
  .ite (fun _ _ => Iff.rfl)
    (.ite (fun _ _ => Iff.rfl)
      (Confined.fetchSector.comp (of_view fun s =>
        ⟨_, .onCdc (F := fun c => { c with countdown := s.cfg.sectorPeriod }) none fun _ _ => rfl, fun _ => rfl⟩))
      (.onCdc none fun _ _ => rfl))
    .id

theorem readResponse : Confined readResponse :=
  of_view fun s => by
    cases h : s.cdc.respFifo with
    | nil =>
      exact ⟨_, .answer (.byte s.cfg.emptyReadValue), fun o => readResponse_nil (s := s.withOutputs o) h⟩
    | cons b rest =>
      exact ⟨_, (Confined.answer (.byte b)).comp (.onCdc none fun _ _ => rfl),
        fun o => readResponse_cons (s := s.withOutputs o) h⟩

/-- A read answers what does not depend on the outputs. -/
theorem answers {v : State → ReadValue} (hv : ∀ s o, v (s.withOutputs o) = v s) :
    Confined fun s => s.answer (v s) :=
  of_view fun s => ⟨_, .answer (v s), fun o => by rw [hv]⟩

/-- A change of the record that depends on the parameters, and an answer. -/
theorem onCdcAnswers {F : Config → Cdc → Cdc} {v : State → ReadValue}
    (hF : ∀ cfg c m, F cfg (c.withMute m) = (F cfg c).withMute m) (hv : ∀ s o, v (s.withOutputs o) = v s) :
    Confined fun s => (s.onCdc (F s.cfg)).answer (v s) :=
  of_view fun s => ⟨_, (answer (v s)).comp (.onCdc none (hF s.cfg)), fun o => by rw [hv]; rfl⟩

/-- A change of the record that depends on the parameters. -/
theorem onCdcWith {F : Config → Cdc → Cdc} (hF : ∀ cfg c m, F cfg (c.withMute m) = (F cfg c).withMute m) :
    Confined fun s => s.onCdc (F s.cfg) :=
  of_view fun s => ⟨_, .onCdc none (hF s.cfg), fun _ => rfl⟩

end Confined

theorem dataAdvance_withMute (cfg : Config) (c : Cdc) (m : Bool) :
    dataAdvance cfg (c.withMute m) = (dataAdvance cfg c).withMute m := by
  have h : dataAvailable cfg (c.withMute m) = dataAvailable cfg c := rfl
  simp only [dataAdvance, h]
  split <;> rfl

theorem dataByte_withMute (cfg : Config) (c : Cdc) (m : Bool) : dataByte cfg (c.withMute m) = dataByte cfg c := rfl

theorem dataWord_withMute (cfg : Config) (c : Cdc) (m : Bool) :
    (dataWord cfg (c.withMute m)).1 = (dataWord cfg c).1 ∧
      (dataWord cfg (c.withMute m)).2 = (dataWord cfg c).2.withMute m := by
  simp only [dataWord, dataAdvance_withMute, dataByte_withMute, and_self]

/-! The bodies of the commands. -/

namespace Confined

theorem startAt (tag : StateTag) : Confined (startAt tag) :=
  onCdcWith (F := fun cfg c => { c with readPos := c.seekTarget, drive := setTag cfg.driveBits tag c.drive })
    fun _ _ _ => rfl

theorem setDrive (d : Byte → Byte) : Confined (State.onCdc · fun c => { c with drive := d c.drive }) :=
  .onCdc none fun _ _ => rfl

/-- An envelope whose contents do not depend on the outputs. -/
theorem pushes {code : State → IrqCode} {bytes : State → List Byte} (hc : ∀ s o, code (s.withOutputs o) = code s)
    (hb : ∀ s o, bytes (s.withOutputs o) = bytes s) : Confined fun s => Machine.push (code s) (bytes s) s :=
  of_view fun s => ⟨_, .push (code s) (bytes s), fun o => by rw [hc, hb]⟩

theorem bodySetmode : Confined bodySetmode :=
  popParam fun p => .ite (fun _ _ => Iff.rfl) (.raiseFatal .unsupportedMode)
    (pushAck.comp (.onCdc (F := fun c => { c with mode := p }) none fun _ _ => rfl))

theorem bodyGetTD : Confined bodyGetTD := popParam fun _ => pushes (fun _ _ => rfl) fun _ _ => rfl

theorem bodyTest : Confined bodyTest :=
  popParam fun _ => .ite (fun _ _ => Iff.rfl) (pushes (fun _ _ => rfl) fun _ _ => rfl) errorResponse

theorem bodyGetID : Confined bodyGetID :=
  .ite (fun _ _ => Iff.rfl) errorResponse (.ite (fun _ _ => Iff.rfl)
    (of_view fun s => ⟨_, (push s.cfg.intError errNoDiscPayload).comp pushAck, fun _ => rfl⟩)
    (of_view fun s => ⟨_, (push s.cfg.intDone s.cfg.getidOkPayload.toList).comp pushAck, fun _ => rfl⟩))

theorem commandBody (n : CommandName) : Confined (commandBody n) := by
  cases n with
  | getstat => exact pushAck
  | setloc => exact popParam fun _ => popParam fun _ => popParam fun _ => pushAck.comp (.onCdc none fun _ _ => rfl)
  | play | readN | readS => exact pushAck.comp (startAt _)
  | motorOn =>
    exact of_view fun s => ⟨_, pushDone.comp (pushAck.comp (setDrive fun d => d ||| bitMask s.cfg.driveBits.motorOn)),
      fun _ => rfl⟩
  | stop =>
    exact of_view fun s => ⟨_, pushDone.comp (pushAck.comp (setDrive fun d =>
      setTag s.cfg.driveBits .stopped d &&& ~~~bitMask s.cfg.driveBits.motorOn)), fun _ => rfl⟩
  | pause =>
    exact of_view fun s => ⟨_, pushDone.comp ((setDrive (setTag s.cfg.driveBits .stopped)).comp pushAck),
      fun _ => rfl⟩
  | init =>
    exact of_view fun s => ⟨_, pushDone.comp
      ((setDrive fun _ => 0x00#8 ||| bitMask s.cfg.driveBits.motorOn).comp pushAck), fun _ => rfl⟩
  | mute => exact pushAck.comp (.onCdc (some true) fun _ _ => rfl)
  | demute => exact pushAck.comp (.onCdc (some false) fun _ _ => rfl)
  | setmode => exact bodySetmode
  | getparam | getTN => exact pushes (fun _ _ => rfl) fun _ _ => rfl
  | getTD => exact bodyGetTD
  | seekL => exact pushDone.comp ((startAt .seeking).comp pushAck)
  | test => exact bodyTest
  | getID => exact bodyGetID

theorem bodyUnknown (op : Byte) : Confined (bodyUnknown op) := errorResponse.comp (note (.unknownOpcode op))

end Confined

/-- Every operation's update is confined. -/
theorem Meaning.confined {o : Opcodes} {i : Instr} {f : State → State} (h : Meaning o i f) : Confined f := by
  cases h with
  | command n => exact .dispatch (.commandBody n)
  | unknown op | unknownByte => exact .dispatch (.bodyUnknown _)
  | rdStat | rdIrqen | rdIrqflag => exact .answers fun _ _ => rfl
  | wrIndex | wrIrqen => exact .onCdc none fun _ _ => rfl
  | rdResp => exact .readResponse
  | wrParam v => exact .pushParam v
  | rdData => exact .onCdcAnswers dataAdvance_withMute fun _ _ => rfl
  | wrIrqack v => exact .onCdcWith (F := fun cfg => acknowledge cfg v) fun _ _ _ => rfl
  | wrReq v => exact .request _
  | ignoredWrite aa ii v => exact .note _
  | tick => exact Confined.sectorPump.comp (Confined.deliverInterrupt.comp .beginTick)
  | rdDataWord =>
    exact .onCdcAnswers (F := fun cfg c => (dataWord cfg c).2) (fun cfg c m => (dataWord_withMute cfg c m).2)
      fun s o => congrArg ReadValue.word (dataWord_withMute s.cfg s.cdc o.mute).1

/-- A read that the map leaves out, when it goes on, only answers and logs (R68). -/
theorem execUnmappedRead_eq_next {aa ii : Index} {s t : State} (h : execUnmappedRead aa ii s = .next t) :
    t = (s.answer (.byte 0x00#8)).note (.ignoredRead aa ii) :=
  (operate_eq_next.mp h).2

/-- An operation that goes on keeps the parameters, the provider and the operations still to come. -/
theorem exec_keeps_fixed {i : Instr} {s t : State} (h : exec i s = .next t) :
    t.cfg = s.cfg ∧ t.disc = s.disc ∧ t.inbox = s.inbox := by
  rcases exec_cases h with ⟨-, rfl⟩ | ⟨f, hf, -, rfl⟩
  · exact ⟨rfl, rfl, rfl⟩
  · exact hf.confined.keeps s

/-- Settles O59: with no operation waiting nothing changes, and an operation keeps the rest of the inbox. -/
theorem stepKeepsParametersAndProvider : Obligations.StepKeepsParametersAndProvider := by
  intro s t h
  rcases step_cases h with ⟨hi, rfl⟩ | ⟨op, rest, hi, ⟨i, -, h⟩ | ⟨aa, ii, -, h⟩⟩
  · exact ⟨rfl, rfl, by rw [hi]; rfl⟩
  · obtain ⟨hc, hd, hr⟩ := exec_keeps_fixed h
    exact ⟨hc, hd, by rw [hr, hi]; rfl⟩
  · obtain rfl := execUnmappedRead_eq_next h
    exact ⟨rfl, rfl, by rw [hi]; rfl⟩

/-- From states that differ in the outputs only, an operation is one confined update, or one fault. -/
theorem exec_withOutputs (i : Instr) (s : State) :
    (∃ f, Confined f ∧ ∀ o, exec i (s.withOutputs o) = .next (f (s.withOutputs o))) ∨
      ∃ k, ∀ o, exec i (s.withOutputs o) = .fault k := by
  by_cases hi : i = .reset
  · subst hi
    exact .inl ⟨_, .resetCdc, fun o => exec_reset _⟩
  · obtain ⟨f, hf⟩ := exists_meaning s.cfg.encodings.opcodes hi
    have hexec (o : Outputs) : exec i (s.withOutputs o) = operate f (s.withOutputs o) := exec_of_meaning hf
    cases h : s.cdc.fatal with
    | none => exact .inl ⟨f, hf.confined, fun o => (hexec o).trans (operate_of_clear (s := s.withOutputs o) h f)⟩
    | some k => exact .inr ⟨.noStep k, fun o => (hexec o).trans (operate_of_latched (s := s.withOutputs o) h f)⟩

/-- Settles O60: the update of an operation adds one and the same emission to any outputs. -/
theorem muteAndOutputsInfluenceNothing : Obligations.MuteAndOutputsInfluenceNothing := by
  intro i s s' m r h l hs'
  obtain rfl : s' = s.withOutputs ⟨m, r, h, l⟩ := hs'
  rcases exec_withOutputs i s with ⟨f, hf, hexec⟩ | ⟨k, hexec⟩
  · have hs : exec i s = .next (f s) := hexec s.outputs
    rw [hs]
    refine ⟨nofun, fun t ht => ?_⟩
    cases ht
    obtain ⟨e, hadd, he⟩ := hf.adds s
    obtain ⟨hm, hr, hh, hl⟩ := Outputs.mk.inj hadd
    have ht' := hexec ⟨m, r, h, l⟩
    rw [he] at ht'
    exact ⟨_, e.answer, e.raises, e.notes, e.set, ht', rfl, hm, rfl, rfl, rfl, rfl, rfl, hr, rfl, hh, rfl, hl, rfl⟩
  · have hs : exec i s = .fault k := hexec s.outputs
    rw [hs]
    exact ⟨fun _ hk => (hexec ⟨m, r, h, l⟩).trans hk, fun _ ht => by cases ht⟩

end Sys2Proof.Machine

/-! ### The invariant -/

namespace Sys2Proof.Machine

/-! The drive status byte: the motor bit, the state bits and the four flags are apart. -/

section
variable {b : DriveBits} {d : Byte}

/-- The bits of a layout, the flags, the motor and the states in this order, differ pairwise. -/
theorem DriveBits.bits_distinct (h : b.wellFormed = true) :
    [b.error, b.motorOn, b.seekError, b.idError, b.shellOpen, b.reading, b.seeking, b.playing].Pairwise (· ≠ ·) :=
  of_decide_eq_true h

theorem errorMask_and_stateMask (h : b.wellFormed = true) : errorMask b &&& stateMask b = 0#8 := by
  have hb := DriveBits.bits_distinct h
  simp only [List.pairwise_cons, List.mem_cons, forall_eq_or_imp] at hb
  simp [errorMask, stateMask, BitVec.and_or_distrib_left, BitVec.and_or_distrib_right, bitMask_and_bitMask, hb]

theorem motorOn_and_stateMask (h : b.wellFormed = true) : bitMask b.motorOn &&& stateMask b = 0#8 := by
  have hb := DriveBits.bits_distinct h
  simp only [List.pairwise_cons, List.mem_cons, forall_eq_or_imp] at hb
  simp [stateMask, BitVec.and_or_distrib_left, bitMask_and_bitMask, hb]

theorem motorOn_and_errorMask (h : b.wellFormed = true) : bitMask b.motorOn &&& errorMask b = 0#8 := by
  have hb := DriveBits.bits_distinct h
  have herr : b.motorOn ≠ b.error := (List.rel_of_pairwise_cons hb (by simp)).symm
  simp only [List.pairwise_cons, List.mem_cons, forall_eq_or_imp] at hb
  simp [errorMask, BitVec.and_or_distrib_left, bitMask_and_bitMask, hb, herr]

theorem tagBit_and_errorMask (h : b.wellFormed = true) (tag : StateTag) : tagBit b tag &&& errorMask b = 0#8 := by
  rw [← setTag_onlyTag tag 0#8, BitVec.and_assoc, BitVec.and_comm (stateMask b), errorMask_and_stateMask h,
    BitVec.and_zero]

/-- At most one state bit is set and the four flags are clear. -/
structure DriveOk (b : DriveBits) (d : Byte) : Prop where
  one_tag : ∃ tag, d &&& stateMask b = tagBit b tag
  flags_clear : d &&& errorMask b = 0#8

theorem driveOk_zero (b : DriveBits) : DriveOk b 0#8 := ⟨⟨.stopped, BitVec.zero_and⟩, BitVec.zero_and⟩

theorem DriveOk.setTag (hb : b.wellFormed = true) (h : DriveOk b d) (tag : StateTag) : DriveOk b (setTag b tag d) where
  one_tag := ⟨tag, setTag_onlyTag tag d⟩
  flags_clear := by
    rw [Machine.setTag, BitVec.and_or_distrib_right, tagBit_and_errorMask hb, BitVec.and_assoc,
      BitVec.and_comm (~~~_), ← BitVec.and_assoc, h.flags_clear]
    simp

theorem DriveOk.or_motorOn (hb : b.wellFormed = true) (h : DriveOk b d) : DriveOk b (d ||| bitMask b.motorOn) where
  one_tag := by
    obtain ⟨tag, ht⟩ := h.one_tag
    exact ⟨tag, by rw [BitVec.and_or_distrib_right, motorOn_and_stateMask hb, ht, BitVec.or_zero]⟩
  flags_clear := by rw [BitVec.and_or_distrib_right, motorOn_and_errorMask hb, h.flags_clear, BitVec.or_zero]

/-- Stopped, any further bits may be cleared. -/
theorem DriveOk.stopped_and (hb : b.wellFormed = true) (h : DriveOk b d) (m : Byte) :
    DriveOk b (Machine.setTag b .stopped d &&& m) where
  one_tag := ⟨.stopped, by
    rw [BitVec.and_assoc, BitVec.and_comm m, ← BitVec.and_assoc, setTag_onlyTag, tagBit, BitVec.zero_and]⟩
  flags_clear := by
    rw [BitVec.and_assoc, BitVec.and_comm m, ← BitVec.and_assoc, (h.setTag hb .stopped).flags_clear, BitVec.zero_and]

end

@[simp] theorem pushAck_cfg (s : State) : (pushAck s).cfg = s.cfg := push_cfg ..

theorem isCode_dataReady (cfg : Config) : IsCode cfg cfg.intDataReady := .inl rfl
theorem isCode_done (cfg : Config) : IsCode cfg cfg.intDone := .inr (.inl rfl)
theorem isCode_ack (cfg : Config) : IsCode cfg cfg.intAck := .inr (.inr (.inl rfl))
theorem isCode_error (cfg : Config) : IsCode cfg cfg.intError := .inr (.inr (.inr rfl))

/-! The invariant of the record after each kind of change. -/

section
variable {cfg : Config} {c : Cdc}

theorem CdcOk.driveOk (h : CdcOk cfg c) : DriveOk cfg.driveBits c.drive := ⟨⟨_, h.one_state_bit⟩, h.flags_clear⟩

theorem CdcOk.setDrive (hcfg : ConfigOk cfg) (h : CdcOk cfg c) {d : Byte} (hd : DriveOk cfg.driveBits d) :
    CdcOk cfg { c with drive := d } := by
  obtain ⟨tag, ht⟩ := hd.one_tag
  exact { h with
    one_state_bit := by rw [stateTag_of_onlyTag hcfg.drive_bits_ok ht]; exact ht
    flags_clear := hd.flags_clear }

/-- The payload is no longer than a whole sector's, in either mode. -/
theorem payloadLen_le (hcfg : ConfigOk cfg) (c : Cdc) : payloadLen cfg c ≤ cfg.payloadWhole := by
  have h := hcfg.payload_larger
  unfold payloadLen
  split <;> omega

theorem CdcOk.dataAdvance (hcfg : ConfigOk cfg) (h : CdcOk cfg c) : CdcOk cfg (dataAdvance cfg c) := by
  rcases dataAdvance_cases cfg c with ⟨ha, he⟩ | ⟨-, he⟩ <;> rw [he]
  · obtain ⟨-, hlt⟩ : c.active.isSome = true ∧ c.cursor < payloadLen cfg c := by simpa [dataAvailable] using ha
    exact { h with cursor_bounded := hlt.trans_le (payloadLen_le hcfg c) }
  · exact h

theorem CdcOk.dataWord (hcfg : ConfigOk cfg) (h : CdcOk cfg c) : CdcOk cfg (dataWord cfg c).2 :=
  (((h.dataAdvance hcfg).dataAdvance hcfg).dataAdvance hcfg).dataAdvance hcfg

theorem CdcOk.clearCursor (h : CdcOk cfg c) (a : Option SectorData) : CdcOk cfg { c with active := a, cursor := 0 } :=
  { h with cursor_bounded := Nat.zero_le _ }

theorem CdcOk.dropParams (h : CdcOk cfg c) {rest : List Byte} (hr : rest.length ≤ c.paramFifo.length) :
    CdcOk cfg { c with paramFifo := rest } := by
  obtain ⟨hp, hrq⟩ := h.queues_bounded
  exact { h with queues_bounded := ⟨hr.trans hp, hrq⟩ }

theorem CdcOk.dropCode (h : CdcOk cfg c) : CdcOk cfg { c with irqFifo := c.irqFifo.tail } := by
  obtain ⟨hp, hr, hi⟩ := h.queues_bounded
  exact { h with
    queues_bounded := ⟨hp, hr, c.irqFifo.tail_sublist.length_le.trans hi⟩
    codes_known := fun x hx => h.codes_known x (List.mem_of_mem_tail hx) }

theorem CdcOk.acknowledge (h : CdcOk cfg c) (v : Byte) : CdcOk cfg (acknowledge cfg v c) := by
  unfold Machine.acknowledge
  have hclear : CdcOk cfg { c with paramFifo := [] } := h.dropParams (Nat.zero_le _)
  split <;> split
  · exact hclear.dropCode
  · exact hclear
  · exact h.dropCode
  · exact h

end

/-! The invariant of the machine after each update. -/

namespace State.Inv

variable {s : State}

theorem onCdc (h : s.Inv) {F : Cdc → Cdc} (hF : CdcOk s.cfg (F s.cdc)) : (s.onCdc F).Inv :=
  ⟨h.config_ok, h.disc_ok, hF⟩

theorem note (h : s.Inv) (e : LogEvent) : (s.note e).Inv := ⟨h.config_ok, h.disc_ok, h.cdc_ok⟩

theorem answer (h : s.Inv) (v : ReadValue) : (s.answer v).Inv := ⟨h.config_ok, h.disc_ok, h.cdc_ok⟩

theorem raiseFatal (h : s.Inv) (k : FatalKind) : (s.raiseFatal k).Inv := h.onCdc { h.cdc_ok with }

theorem resetCdc (h : s.Inv) : s.resetCdc.Inv := h.onCdc h.config_ok.reset_ok

theorem setDrive (h : s.Inv) (f : Byte → Byte)
    (hf : ∀ d, s.cfg.driveBits.wellFormed = true → DriveOk s.cfg.driveBits d → DriveOk s.cfg.driveBits (f d)) :
    (s.onCdc fun c => { c with drive := f c.drive }).Inv :=
  h.onCdc (h.cdc_ok.setDrive h.config_ok (hf _ h.config_ok.drive_bits_ok h.cdc_ok.driveOk))

theorem pushCode (h : s.Inv) {code : IrqCode} (hcode : IsCode s.cfg code) : (pushCode code s).Inv := by
  rcases pushCode_cases code s with ⟨hlt, he⟩ | ⟨-, he⟩ <;> rw [he]
  · obtain ⟨hp, hr, -⟩ := h.cdc_ok.queues_bounded
    refine h.onCdc { h.cdc_ok with
      queues_bounded := ⟨hp, hr, by simpa using hlt⟩
      codes_known := fun x hx => ?_ }
    rcases List.mem_append.mp hx with hx | hx
    · exact h.cdc_ok.codes_known x hx
    · rwa [List.mem_singleton.mp hx]
  · exact h.note _

theorem pushByte (h : s.Inv) (b : Byte) : (pushByte s b).Inv := by
  rcases pushByte_cases s b with ⟨hlt, he⟩ | ⟨-, he⟩ <;> rw [he]
  · obtain ⟨hp, -, hi⟩ := h.cdc_ok.queues_bounded
    exact h.onCdc { h.cdc_ok with queues_bounded := ⟨hp, by simpa using hlt, hi⟩ }
  · exact h.note _

theorem pushBytes (h : s.Inv) (bytes : List Byte) : (bytes.foldl Machine.pushByte s).Inv := by
  induction bytes generalizing s with
  | nil => exact h
  | cons b bs ih => exact ih (h.pushByte b)

theorem push (h : s.Inv) {code : IrqCode} (hcode : IsCode s.cfg code) (bytes : List Byte) : (push code bytes s).Inv :=
  (h.pushCode hcode).pushBytes bytes

theorem pushAck (h : s.Inv) : (pushAck s).Inv := h.push (isCode_ack _) _

theorem pushDone (h : s.Inv) : (pushDone s).Inv := h.push (isCode_done _) _

theorem errorResponse (h : s.Inv) : (errorResponse s).Inv := h.push (isCode_error _) _

theorem pushParam (h : s.Inv) (b : Byte) : (pushParam b s).Inv := by
  rcases pushParam_cases s b with ⟨hlt, he⟩ | ⟨-, he⟩ <;> rw [he]
  · obtain ⟨-, hri⟩ := h.cdc_ok.queues_bounded
    exact h.onCdc { h.cdc_ok with queues_bounded := ⟨by simpa using hlt, hri⟩ }
  · exact h.note _

theorem popParam (h : s.Inv) {k : Byte → State → State} (hk : ∀ b t, t.Inv → (k b t).Inv) : (popParam k s).Inv := by
  cases hq : s.cdc.paramFifo with
  | nil => rw [popParam_nil hq]; exact h.raiseFatal _
  | cons b rest =>
    rw [popParam_cons hq]
    exact hk b _ (h.onCdc (h.cdc_ok.dropParams (by simp [hq])))

theorem request (h : s.Inv) (b : Bool) : (request b s).Inv := by
  rcases request_cases s b with ⟨-, -, he⟩ | ⟨-, -, he⟩ | ⟨-, he⟩ <;> rw [he]
  · exact h
  · exact h.onCdc (h.cdc_ok.clearCursor _)
  · exact h.onCdc (h.cdc_ok.clearCursor _)

theorem readResponse (h : s.Inv) : (readResponse s).Inv := by
  cases hq : s.cdc.respFifo with
  | nil => rw [readResponse_nil hq]; exact h.answer _
  | cons b rest =>
    rw [readResponse_cons hq]
    obtain ⟨hp, hr, hi⟩ := h.cdc_ok.queues_bounded
    rw [hq, List.length_cons] at hr
    exact (h.onCdc { h.cdc_ok with queues_bounded := ⟨hp, Nat.le_of_succ_le hr, hi⟩ }).answer _

/-! The commands. -/

theorem dispatch (h : s.Inv) {body : State → State} (hb : ∀ t, t.Inv → (body t).Inv) : (dispatch body s).Inv := by
  obtain ⟨hp, -, -⟩ := h.cdc_ok.queues_bounded
  have hclear : (clearResponses s).Inv :=
    h.onCdc { h.cdc_ok with queues_bounded := ⟨hp, Nat.zero_le _, Nat.zero_le _⟩, codes_known := nofun }
  have ht := hb _ hclear
  cases hf : (body (clearResponses s)).cdc.fatal with
  | some k => rwa [dispatch_of_fatal hf]
  | none =>
    rw [dispatch_of_clear hf]
    exact ht.onCdc { ht.cdc_ok.dropParams (rest := []) (Nat.zero_le _) with }

theorem startAt (h : s.Inv) (tag : StateTag) : (startAt tag s).Inv :=
  h.onCdc { h.cdc_ok.setDrive h.config_ok (h.cdc_ok.driveOk.setTag h.config_ok.drive_bits_ok tag) with }

theorem bodySetmode (h : s.Inv) : (bodySetmode s).Inv :=
  h.popParam fun p t ht => by
    split
    · exact ht.raiseFatal _
    · next hp => exact (ht.onCdc { ht.cdc_ok with mode_supported := by simpa using hp }).pushAck

theorem bodyGetTD (h : s.Inv) : (bodyGetTD s).Inv := h.popParam fun _ _ ht => ht.push (isCode_ack _) _

theorem bodyTest (h : s.Inv) : (bodyTest s).Inv :=
  h.popParam fun _ _ ht => by
    split
    · exact ht.push (isCode_ack _) _
    · exact ht.errorResponse

theorem bodyGetID (h : s.Inv) : (bodyGetID s).Inv := by
  unfold Machine.bodyGetID
  split
  · exact h.errorResponse
  · split
    · exact h.pushAck.push (by rw [pushAck_cfg]; exact isCode_error _) _
    · exact h.pushAck.push (by rw [pushAck_cfg]; exact isCode_done _) _

theorem commandBody (h : s.Inv) (n : CommandName) : (commandBody n s).Inv := by
  cases n with
  | getstat => exact h.pushAck
  | setloc =>
    exact h.popParam fun mm _ h => h.popParam fun ss _ h => h.popParam fun ff _ h =>
      (h.onCdc { h.cdc_ok with }).pushAck
  | play | readN | readS => exact (h.startAt _).pushAck
  | motorOn =>
    exact (h.setDrive (fun d => d ||| bitMask s.cfg.driveBits.motorOn) fun _ hb hd => hd.or_motorOn hb).pushAck.pushDone
  | stop =>
    exact (h.setDrive (fun d => setTag s.cfg.driveBits .stopped d &&& ~~~bitMask s.cfg.driveBits.motorOn)
      fun _ hb hd => hd.stopped_and hb _).pushAck.pushDone
  | pause =>
    exact (h.pushAck.setDrive (setTag s.cfg.driveBits .stopped) fun _ hb hd => by
      rw [pushAck_cfg] at *
      exact hd.setTag hb _).pushDone
  | init =>
    exact (h.pushAck.setDrive (fun _ => 0x00#8 ||| bitMask s.cfg.driveBits.motorOn) fun _ hb _ => by
      rw [pushAck_cfg] at *
      exact (driveOk_zero _).or_motorOn hb).pushDone
  | mute | demute => exact (h.onCdc { h.cdc_ok with }).pushAck
  | setmode => exact h.bodySetmode
  | getparam | getTN => exact h.push (isCode_ack _) _
  | getTD => exact h.bodyGetTD
  | seekL => exact (h.pushAck.startAt .seeking).pushDone
  | test => exact h.bodyTest
  | getID => exact h.bodyGetID

theorem bodyUnknown (h : s.Inv) (op : Byte) : (bodyUnknown op s).Inv := (h.note _).errorResponse

/-! The tick. -/

theorem deliver_beginTick (h : s.Inv) : (deliverInterrupt (beginTick s)).Inv := by
  rw [Machine.deliver_beginTick]
  exact ⟨h.config_ok, h.disc_ok, { h.cdc_ok with }⟩

theorem fetchSector (h : s.Inv) : (fetchSector s).Inv := by
  have hfetched : (fetched s).Inv := h.onCdc { h.cdc_ok with }
  obtain ⟨t, ht, he⟩ := fetchSector_cases s
  have htInv : t.Inv ∧ t.cfg = s.cfg := by
    rcases ht with rfl | rfl
    · exact ⟨hfetched, rfl⟩
    · exact ⟨hfetched.note _, rfl⟩
  obtain ⟨htInv, hcfg⟩ := htInv
  rw [he]
  split
  · exact htInv.push (hcfg ▸ isCode_dataReady s.cfg) _
  · exact htInv

theorem sectorPump (h : s.Inv) : (sectorPump s).Inv := by
  obtain ⟨hpos, hle⟩ := h.cdc_ok.countdown_in_range
  cases hp : pumping s.cfg.driveBits s.cdc with
  | false => rwa [sectorPump_idle hp]
  | true =>
    by_cases hc : 2 ≤ s.cdc.countdown
    · rw [sectorPump_counts hp hc]
      exact h.onCdc { h.cdc_ok with countdown_in_range := by dsimp only; omega }
    · rw [sectorPump_fetches hp (by omega)]
      exact (h.onCdc { h.cdc_ok with countdown_in_range := ⟨h.config_ok.period_pos, le_rfl⟩ }).fetchSector

end State.Inv

/-- Every operation's update keeps the invariant. -/
theorem Meaning.keeps_inv {o : Opcodes} {i : Instr} {f : State → State} (hf : Meaning o i f) {s : State}
    (h : s.Inv) : (f s).Inv := by
  cases hf with
  | command n => exact h.dispatch fun _ ht => ht.commandBody n
  | unknown | unknownByte => exact h.dispatch fun _ ht => ht.bodyUnknown _
  | rdStat | rdIrqen | rdIrqflag => exact h.answer _
  | wrIndex | wrIrqen => exact h.onCdc { h.cdc_ok with }
  | rdResp => exact h.readResponse
  | wrParam v => exact h.pushParam v
  | rdData => exact (h.onCdc (h.cdc_ok.dataAdvance h.config_ok)).answer _
  | wrIrqack v => exact h.onCdc (h.cdc_ok.acknowledge v)
  | wrReq v => exact h.request _
  | ignoredWrite => exact h.note _
  | tick => exact h.deliver_beginTick.sectorPump
  | rdDataWord => exact (h.onCdc (h.cdc_ok.dataWord h.config_ok)).answer _

theorem State.Inv.exec {i : Instr} {s t : State} (h : s.Inv) (ht : exec i s = .next t) : t.Inv := by
  rcases exec_cases ht with ⟨-, rfl⟩ | ⟨f, hf, -, rfl⟩
  · exact h.resetCdc
  · exact hf.keeps_inv h

/-- Settles O58: what a step can do, each part of which keeps the invariant. -/
theorem stepKeepsTheInvariant : Obligations.StepKeepsTheInvariant := by
  intro s t h ht
  rcases step_cases ht with ⟨-, rfl⟩ | ⟨op, rest, -, hop⟩
  · exact h
  · have hrest : { s with inbox := rest }.Inv := ⟨h.config_ok, h.disc_ok, h.cdc_ok⟩
    rcases hop with ⟨i, -, hi⟩ | ⟨aa, ii, -, hu⟩
    · exact hrest.exec hi
    · rw [execUnmappedRead_eq_next hu]
      exact (hrest.answer _).note _

/-- The record of R341 with the spec's other defaults meets R47, whatever period is configured. -/
theorem specDefaults_cdcOk : CdcOk specDefaults (Cdc.reset specDefaults) where
  queues_bounded := by decide
  one_state_bit := by decide
  countdown_in_range := ⟨Nat.le_add_left 1 _, le_rfl⟩
  cursor_bounded := by decide
  codes_known := nofun
  mode_supported := by decide
  adpcm_clear := rfl
  flags_clear := by decide

theorem specDefaults_configOk : ConfigOk specDefaults where
  period_pos := Nat.le_add_left 1 _
  codes_nonzero := by decide
  encodings_ok := by decide
  stat_bits_ok := by decide
  drive_bits_ok := by decide
  payload_larger := by decide
  reset_ok := specDefaults_cdcOk
  reset_cursor_ok := by decide

/-- Settles O57: the spec's values are legal and their reset record meets R47; the free provider lists nothing. -/
theorem resetMeetsTheInvariant : Obligations.ResetMeetsTheInvariant :=
  ⟨specDefaults_configOk, ⟨.nil, .nil⟩, specDefaults_cdcOk⟩

/-- Settles O5: a decoded front transaction is fetched as its operation. -/
theorem stepRunsTheDecodedInstruction : Obligations.StepRunsTheDecodedInstruction :=
  fun _ _ _ _ _ hs hr hd => step_of_decode hs hr hd

end Sys2Proof.Machine

/-! ### Who writes a latch -/

namespace Sys2Proof.Machine

/-- The eleven latches: the record without its queues, the active buffer with its cursor, and the fatal latch. -/
def Cdc.latches (c : Cdc) : Cdc :=
  { c with paramFifo := [], respFifo := [], irqFifo := [], active := none, cursor := 0, fatal := none }

section
variable (s : State)

@[simp] theorem push_latches (code : IrqCode) (bytes : List Byte) :
    (push code bytes s).cdc.latches = s.cdc.latches := by
  rw [push_cdc_frame]
  rfl

@[simp] theorem pushAck_latches : (pushAck s).cdc.latches = s.cdc.latches := push_latches ..

@[simp] theorem pushDone_latches : (pushDone s).cdc.latches = s.cdc.latches := push_latches ..

@[simp] theorem errorResponse_latches : (errorResponse s).cdc.latches = s.cdc.latches := push_latches ..

theorem pushParam_latches (b : Byte) : (pushParam b s).cdc.latches = s.cdc.latches := by
  rcases pushParam_cases s b with ⟨-, he⟩ | ⟨-, he⟩ <;> rw [he] <;> rfl

theorem request_latches (b : Bool) : (request b s).cdc.latches = s.cdc.latches := by
  rcases request_cases s b with ⟨-, -, he⟩ | ⟨-, -, he⟩ | ⟨-, he⟩ <;> rw [he] <;> rfl

theorem readResponse_latches : (readResponse s).cdc.latches = s.cdc.latches := by
  cases h : s.cdc.respFifo with
  | nil => rw [readResponse_nil h]; rfl
  | cons b rest => rw [readResponse_cons h]; rfl

theorem dataAdvance_latches (cfg : Config) (c : Cdc) : (dataAdvance cfg c).latches = c.latches := by
  rcases dataAdvance_cases cfg c with ⟨-, he⟩ | ⟨-, he⟩ <;> rw [he]
  rfl

theorem dataWord_latches (cfg : Config) (c : Cdc) : (dataWord cfg c).2.latches = c.latches := by
  simp only [dataWord, dataAdvance_latches]

end

/-- What a command may make of the latches, `busy` aside. -/
inductive CommandWrites (c : Cdc) : CommandName → Cdc → Prop where
  | nothing (n : CommandName) : CommandWrites c n c
  | seekTarget (x : Int) : CommandWrites c .setloc { c with seekTarget := x }
  | mode (p : Byte) : CommandWrites c .setmode { c with mode := p }
  | mute (n : CommandName) (m : Bool) (h : n ∈ [CommandName.mute, .demute]) : CommandWrites c n { c with mute := m }
  | drive (n : CommandName) (d : Byte) (h : n ∈ [CommandName.motorOn, .stop, .pause, .init]) :
      CommandWrites c n { c with drive := d }
  | start (n : CommandName) (d : Byte) (h : n ∈ [CommandName.play, .readN, .readS, .seekL]) :
      CommandWrites c n { c with readPos := c.seekTarget, drive := d }

/-- A command keeps every other latch. -/
theorem CommandWrites.frame {c c' : Cdc} {n : CommandName} (h : CommandWrites c n c') : c' = { c with
    drive := c'.drive, mode := c'.mode, mute := c'.mute, seekTarget := c'.seekTarget, readPos := c'.readPos } := by
  cases h <;> rfl

/-- A property of the latches holds after a pop when it holds before, and after the rest of the body from any state
with the same latches. -/
theorem popParam_latches {P : Cdc → Prop} {c : Cdc} {k : Byte → State → State} {s : State} (hs : s.cdc.latches = c)
    (h : P c) (hk : ∀ b t, t.cdc.latches = c → P (k b t).cdc.latches) : P (popParam k s).cdc.latches := by
  cases hq : s.cdc.paramFifo with
  | nil =>
    rw [popParam_nil hq]
    exact hs ▸ h
  | cons b rest =>
    rw [popParam_cons hq]
    exact hk b _ hs

theorem bodyGetID_latches (s : State) : (bodyGetID s).cdc.latches = s.cdc.latches := by
  unfold bodyGetID
  split
  · rw [errorResponse_latches]
  · split <;> rw [push_latches, pushAck_latches]

theorem bodySetloc_writes (s : State) : CommandWrites s.cdc.latches .setloc (bodySetloc s).cdc.latches :=
  popParam_latches rfl (.nothing _) fun mm _ hs => popParam_latches hs (.nothing _) fun ss _ hs =>
    popParam_latches hs (.nothing _) fun ff t ht => by
      rw [pushAck_latches, ← ht]
      exact .seekTarget _

theorem bodySetmode_writes (s : State) : CommandWrites s.cdc.latches .setmode (bodySetmode s).cdc.latches :=
  popParam_latches rfl (.nothing _) fun p t ht => by
    rw [← ht]
    split
    · exact .nothing _
    · rw [pushAck_latches]
      exact .mode p

theorem bodyGetTD_latches (s : State) : (bodyGetTD s).cdc.latches = s.cdc.latches :=
  popParam_latches (P := (· = s.cdc.latches)) rfl rfl fun _ t ht => by rw [push_latches, ht]

theorem bodyTest_latches (s : State) : (bodyTest s).cdc.latches = s.cdc.latches :=
  popParam_latches (P := (· = s.cdc.latches)) rfl rfl fun sub t ht => by
    split
    · rw [push_latches, ht]
    · rw [errorResponse_latches, ht]

/-- Each command's body writes only the latches that are the command's. -/
theorem commandBody_writes (n : CommandName) (s : State) :
    CommandWrites s.cdc.latches n (commandBody n s).cdc.latches := by
  cases n with
  | getstat | getparam | getTN | getTD | test | getID =>
    simp only [commandBody, bodyGetstat, bodyGetparam, bodyGetTN, bodyGetTD_latches, bodyTest_latches,
      bodyGetID_latches, pushAck_latches, push_latches]
    exact .nothing _
  | setloc => exact bodySetloc_writes s
  | setmode => exact bodySetmode_writes s
  | mute | demute =>
    simp only [commandBody, bodyMute, bodyDemute, pushAck_latches]
    exact .mute _ _ (by decide)
  | motorOn | stop =>
    simp only [commandBody, bodyMotorOn, bodyStop, pushAck_latches, pushDone_latches]
    exact .drive _ _ (by decide)
  | pause | init =>
    simp only [commandBody, bodyPause, bodyInit, pushDone_latches]
    rw [← pushAck_latches s]
    exact .drive _ _ (by decide)
  | play | readN | readS =>
    simp only [commandBody, bodyPlay, bodyReadN, bodyReadS, pushAck_latches]
    exact .start _ _ (by decide)
  | seekL =>
    simp only [commandBody, bodySeekL, pushDone_latches]
    rw [← pushAck_latches s]
    exact .start _ _ (by decide)

/-- Around its body the dispatcher writes `busy`, if anything, and no other latch. -/
theorem dispatch_latches (body : State → State) (s : State) :
    ∃ b : Bool, (b = (body (clearResponses s)).cdc.latches.busy ∨ b = true) ∧
      (dispatch body s).cdc.latches = { (body (clearResponses s)).cdc.latches with busy := b } := by
  cases hf : (body (clearResponses s)).cdc.fatal with
  | some k => exact ⟨_, .inl rfl, by rw [dispatch_of_fatal hf]⟩
  | none => exact ⟨_, .inr rfl, by rw [dispatch_of_clear hf]; rfl⟩

/-- What an operation but `RESET` may make of the latches, under the opcode numbers `o`. -/
inductive LatchWrites (o : Opcodes) (c : Cdc) : Instr → Cdc → Prop where
  | nothing (i : Instr) : LatchWrites o c i c
  | index (ii : Index) (v : Byte) : LatchWrites o c (.wrIndex ii v) { c with index := v.extractLsb' 0 2 }
  | irqEnable (v : Byte) : LatchWrites o c (.wrIrqen v) { c with irqEnable := v }
  | tick (pos : Int) (n : Nat) (raw : Option SectorData) (h : pos = c.readPos ∨ pos = c.readPos + 1) :
      LatchWrites o c .tick { c with busy := false, readPos := pos, countdown := n, rawSector := raw }
  | unknown {i : Instr} (b : Bool) (hb : b = c.busy ∨ b = true) (h : (∃ op, i = .unknown op) ∨ ∃ v, i = .wrCmd v) :
      LatchWrites o c i { c with busy := b }
  | command {i : Instr} {n : CommandName} {c' : Cdc} (b : Bool) (hb : b = c'.busy ∨ b = true) (h : Issues o i n)
      (hw : CommandWrites c n c') : LatchWrites o c i { c' with busy := b }

/-- A command's dispatch writes what its body writes, and `busy`. -/
theorem dispatch_commandBody_writes {o : Opcodes} {i : Instr} {n : CommandName} (h : Issues o i n) (s : State) :
    LatchWrites o s.cdc.latches i (dispatch (commandBody n) s).cdc.latches := by
  obtain ⟨b, hb, he⟩ := dispatch_latches (commandBody n) s
  rw [he]
  exact .command b hb h (commandBody_writes n (clearResponses s))

theorem dispatch_bodyUnknown_writes {o : Opcodes} {i : Instr} (h : (∃ op, i = .unknown op) ∨ ∃ v, i = .wrCmd v)
    (op : Byte) (s : State) : LatchWrites o s.cdc.latches i (dispatch (bodyUnknown op) s).cdc.latches := by
  obtain ⟨b, hb, he⟩ := dispatch_latches (bodyUnknown op) s
  have hu : (bodyUnknown op (clearResponses s)).cdc.latches = s.cdc.latches := errorResponse_latches _
  rw [hu] at hb he
  rw [he]
  exact .unknown b hb h

theorem fetchSector_latches (s : State) : (fetchSector s).cdc.latches = (fetched s).cdc.latches := by
  obtain ⟨t, ht, he⟩ := fetchSector_cases s
  have hl : t.cdc.latches = (fetched s).cdc.latches := by rcases ht with rfl | rfl <;> rfl
  rw [he]
  split
  · rw [push_latches, hl]
  · exact hl

theorem sectorPump_writes (s : State) : ∃ (pos : Int) (n : Nat) (raw : Option SectorData),
    (pos = s.cdc.readPos ∨ pos = s.cdc.readPos + 1) ∧
      (sectorPump s).cdc.latches = { s.cdc.latches with readPos := pos, countdown := n, rawSector := raw } := by
  cases hp : pumping s.cfg.driveBits s.cdc with
  | false => exact ⟨_, _, _, .inl rfl, by rw [sectorPump_idle hp]; rfl⟩
  | true =>
    by_cases hc : 2 ≤ s.cdc.countdown
    · exact ⟨_, _, _, .inl rfl, by rw [sectorPump_counts hp hc]; rfl⟩
    · exact ⟨_, _, _, .inr rfl, by rw [sectorPump_fetches hp (by omega), fetchSector_latches]; rfl⟩

/-- Every operation's update writes only the latches that are its own. -/
theorem Meaning.writes {o : Opcodes} {i : Instr} {f : State → State} (h : Meaning o i f) (s : State) :
    LatchWrites o s.cdc.latches i (f s).cdc.latches := by
  cases h with
  | command n h => exact dispatch_commandBody_writes h s
  | unknown op => exact dispatch_bodyUnknown_writes (.inl ⟨op, rfl⟩) op s
  | unknownByte h => exact dispatch_bodyUnknown_writes (.inr ⟨_, rfl⟩) _ s
  | rdStat | rdIrqen | rdIrqflag => exact .nothing _
  | wrIndex ii v => exact .index ii v
  | wrIrqen v => exact .irqEnable v
  | rdResp => rw [readResponse_latches]; exact .nothing _
  | wrParam v => rw [pushParam_latches]; exact .nothing _
  | rdData => rw [answer_cdc, onCdc_cdc, dataAdvance_latches]; exact .nothing _
  | wrIrqack v => exact .nothing _
  | wrReq v => rw [request_latches]; exact .nothing _
  | ignoredWrite aa ii v => exact .nothing _
  | tick =>
    obtain ⟨pos, n, raw, hpos, he⟩ := sectorPump_writes (deliverInterrupt (beginTick s))
    rw [he, deliver_beginTick]
    exact .tick pos n raw (by rwa [deliver_beginTick] at hpos)
  | rdDataWord => rw [answer_cdc, onCdc_cdc, dataWord_latches]; exact .nothing _

/-! The writers of each latch, read off. -/

theorem Issues.eq {o : Opcodes} {i : Instr} {n : CommandName} (h : Issues o i n) :
    i = commandInstr n ∨ i = .wrCmd (o.of n) := by
  rcases h with rfl | ⟨op, rfl, h⟩
  · exact .inl rfl
  · exact .inr (by rw [of_lookupCommand h])

/-- A command of a list is issued by a row of the list or by an opcode of the list. -/
theorem Issues.mem {o : Opcodes} {i : Instr} {n : CommandName} (h : Issues o i n) {l : List CommandName}
    (hn : n ∈ l) : i ∈ l.map commandInstr ∨ ∃ op, i = .wrCmd op ∧ op ∈ l.map o.of := by
  rcases h.eq with rfl | rfl
  · exact .inl (List.mem_map_of_mem hn)
  · exact .inr ⟨_, rfl, List.mem_map_of_mem hn⟩

namespace CommandWrites

variable {c c' : Cdc} {n : CommandName}

theorem drive_writer (h : CommandWrites c n c') (hne : c'.drive ≠ c.drive) :
    n ∈ [CommandName.play, .readN, .motorOn, .stop, .pause, .init, .seekL, .readS] := by
  cases h with
  | drive n d hn | start n d hn => revert n; simp
  | nothing | seekTarget | mode | mute => exact absurd rfl hne

theorem mode_writer (h : CommandWrites c n c') (hne : c'.mode ≠ c.mode) : n = .setmode := by
  cases h with
  | mode => rfl
  | nothing | seekTarget | mute | drive | start => exact absurd rfl hne

theorem mute_writer (h : CommandWrites c n c') (hne : c'.mute ≠ c.mute) : n ∈ [CommandName.mute, .demute] := by
  cases h with
  | mute n m hn => exact hn
  | nothing | seekTarget | mode | drive | start => exact absurd rfl hne

theorem seekTarget_writer (h : CommandWrites c n c') (hne : c'.seekTarget ≠ c.seekTarget) : n = .setloc := by
  cases h with
  | seekTarget => rfl
  | nothing | mode | mute | drive | start => exact absurd rfl hne

theorem readPos_writer (h : CommandWrites c n c') (hne : c'.readPos ≠ c.readPos) :
    c'.readPos = c.seekTarget ∧ n ∈ [CommandName.play, .readN, .seekL, .readS] := by
  cases h with
  | start n d hn => exact ⟨rfl, by revert n; simp⟩
  | nothing | seekTarget | mode | mute | drive => exact absurd rfl hne

end CommandWrites

namespace LatchWrites

variable {o : Opcodes} {c c' : Cdc} {i : Instr}

theorem index_writer (h : LatchWrites o c i c') (hne : c'.index ≠ c.index) : ∃ ii v, i = .wrIndex ii v := by
  cases h with
  | index ii v => exact ⟨ii, v, rfl⟩
  | command b hb hi hw => rw [hw.frame] at hne; exact absurd rfl hne
  | nothing | irqEnable | tick | unknown => exact absurd rfl hne

theorem irqEnable_writer (h : LatchWrites o c i c') (hne : c'.irqEnable ≠ c.irqEnable) : ∃ v, i = .wrIrqen v := by
  cases h with
  | irqEnable v => exact ⟨v, rfl⟩
  | command b hb hi hw => rw [hw.frame] at hne; exact absurd rfl hne
  | nothing | index | tick | unknown => exact absurd rfl hne

theorem adpcm_kept (h : LatchWrites o c i c') : c'.adpcmEmpty = c.adpcmEmpty := by
  cases h with
  | command b hb hi hw => rw [hw.frame]
  | nothing | index | irqEnable | tick | unknown => rfl

/-- The countdown and the raw buffer are the pump's. -/
theorem pump_kept (h : LatchWrites o c i c') (hi : i ≠ .tick) :
    c'.countdown = c.countdown ∧ c'.rawSector = c.rawSector := by
  cases h with
  | tick => exact absurd rfl hi
  | command b hb hi hw => rw [hw.frame]; exact ⟨rfl, rfl⟩
  | nothing | index | irqEnable | unknown => exact ⟨rfl, rfl⟩

theorem busy_writer (h : LatchWrites o c i c') (hne : c'.busy ≠ c.busy) :
    (i = .tick ∧ c'.busy = false) ∨ (c'.busy = true ∧
      ((∃ v, i = .wrCmd v) ∨ (∃ n, i = commandInstr n) ∨ ∃ op, i = .unknown op)) := by
  cases h with
  | tick => exact .inl ⟨rfl, rfl⟩
  | unknown b hb hi =>
    rcases hb with rfl | rfl
    · exact absurd rfl hne
    · rcases hi with hi | hi
      · exact .inr ⟨rfl, .inr (.inr hi)⟩
      · exact .inr ⟨rfl, .inl hi⟩
  | command b hb hi hw =>
    rcases hb with rfl | rfl
    · rw [hw.frame] at hne; exact absurd rfl hne
    · rcases hi.eq with hi | hi
      · exact .inr ⟨rfl, .inr (.inl ⟨_, hi⟩)⟩
      · exact .inr ⟨rfl, .inl ⟨_, hi⟩⟩
  | nothing | index | irqEnable => exact absurd rfl hne

/-- A latch that neither the register file nor a tick writes is a command's. -/
theorem command_writer {α : Type} (g : Cdc → α) (hg : ∀ (c : Cdc) ix en b pos n raw, g { c with
      index := ix, irqEnable := en, busy := b, readPos := pos, countdown := n, rawSector := raw } = g c)
    (h : LatchWrites o c i c') (hne : g c' ≠ g c) :
    ∃ n u, Issues o i n ∧ CommandWrites c n u ∧ g u = g c' := by
  cases h with
  | command b hb hi hw => exact ⟨_, _, hi, hw, (hg _ _ _ _ _ _ _).symm⟩
  | nothing | index | irqEnable | tick | unknown => exact absurd (hg ..) hne

theorem drive_writer (h : LatchWrites o c i c') (hne : c'.drive ≠ c.drive) :
    i ∈ [.play, .readN, .motorOn, .stop, .pause, .init, .seekL, .readS] ∨
      ∃ op, i = .wrCmd op ∧ op ∈ [o.play, o.readN, o.motorOn, o.stop, o.pause, o.init, o.seekL, o.readS] := by
  obtain ⟨n, u, hi, hw, hu⟩ := h.command_writer (·.drive) (fun _ _ _ _ _ _ _ => rfl) hne
  exact hi.mem (hw.drive_writer (hu ▸ hne))

theorem mode_writer (h : LatchWrites o c i c') (hne : c'.mode ≠ c.mode) : i = .setmode ∨ i = .wrCmd o.setmode := by
  obtain ⟨n, u, hi, hw, hu⟩ := h.command_writer (·.mode) (fun _ _ _ _ _ _ _ => rfl) hne
  obtain rfl := hw.mode_writer (hu ▸ hne)
  exact hi.eq

theorem mute_writer (h : LatchWrites o c i c') (hne : c'.mute ≠ c.mute) :
    i = .mute ∨ i = .demute ∨ i = .wrCmd o.mute ∨ i = .wrCmd o.demute := by
  obtain ⟨n, u, hi, hw, hu⟩ := h.command_writer (·.mute) (fun _ _ _ _ _ _ _ => rfl) hne
  have hn : n = .mute ∨ n = .demute := by simpa using hw.mute_writer (hu ▸ hne)
  rcases hn with rfl | rfl <;> rcases hi.eq with rfl | rfl <;> simp [commandInstr, Opcodes.of]

theorem seekTarget_writer (h : LatchWrites o c i c') (hne : c'.seekTarget ≠ c.seekTarget) :
    i = .setloc ∨ i = .wrCmd o.setloc := by
  obtain ⟨n, u, hi, hw, hu⟩ := h.command_writer (·.seekTarget) (fun _ _ _ _ _ _ _ => rfl) hne
  obtain rfl := hw.seekTarget_writer (hu ▸ hne)
  exact hi.eq

theorem readPos_writer (h : LatchWrites o c i c') (hne : c'.readPos ≠ c.readPos) :
    (i = .tick ∧ c'.readPos = c.readPos + 1) ∨ (c'.readPos = c.seekTarget ∧
      (i ∈ [.play, .readN, .seekL, .readS] ∨
        ∃ op, i = .wrCmd op ∧ op ∈ [o.play, o.readN, o.seekL, o.readS])) := by
  cases h with
  | tick pos n raw hpos => exact .inl ⟨rfl, hpos.resolve_left hne⟩
  | command b hb hi hw =>
    obtain ⟨hpos, hn⟩ := hw.readPos_writer hne
    exact .inr ⟨hpos, hi.mem hn⟩
  | nothing | index | irqEnable | unknown => exact absurd rfl hne

end LatchWrites

/-- The 18 commands, in the two lists that O53 writes them in. -/
theorem commandInstr_mem (n : CommandName) :
    commandInstr n ∈ [.getstat, .setloc, .play, .readN, .motorOn, .stop, .pause] ∨
      commandInstr n ∈ [.init, .mute, .demute, .setmode, .getparam, .getTN, .getTD, .seekL, .test, .getID, .readS] := by
  cases n <;> decide

/-- Settles O53: each latch's writers, from what an operation's update may make of the latches. -/
theorem eachLatchHasOnlyItsWriters : Obligations.EachLatchHasOnlyItsWriters := by
  rintro i s t _ ht hi rfl
  rcases exec_cases ht with ⟨hreset, -⟩ | ⟨f, hf, -, rfl⟩
  · exact absurd hreset hi
  have h := hf.writes s
  refine ⟨h.index_writer, h.irqEnable_writer, h.adpcm_kept, fun hne => ?busy, h.drive_writer, h.mode_writer,
    h.mute_writer, h.seekTarget_writer, h.readPos_writer, fun hne => ?countdown, fun hne => ?rawSector⟩
  case busy =>
    rcases h.busy_writer hne with htick | ⟨hb, hv | ⟨n, rfl⟩ | hu⟩
    · exact .inl htick
    · exact .inr ⟨hb, .inl hv⟩
    · exact .inr ⟨hb, .inr ((commandInstr_mem n).imp_right .inl)⟩
    · exact .inr ⟨hb, .inr (.inr (.inr hu))⟩
  case countdown => exact by_contra fun hi => hne (h.pump_kept hi).1
  case rawSector => exact by_contra fun hi => hne (h.pump_kept hi).2

end Sys2Proof.Machine

/-! ### What the decoder refuses -/

namespace Sys2Proof

section
variable {enc : Encodings}

/-- A read is refused at the pairs of registers 1 to 3 where the map has no row (R68). -/
theorem decodeRead_error_iff {aa ii : Index} :
    (∃ d, decodeRead enc aa ii = .error d) ↔ aa ≠ 0#2 ∧ enc.readRow aa ii = none := by
  by_cases ha : aa = 0#2
  · subst ha
    simp
  · cases hr : enc.readRow aa ii with
    | none => simp [decodeRead_of_none ha hr, ha]
    | some row => simp [decodeRead_of_some hr]

/-- Code 11 is the one event code with no row in R93. -/
theorem decodeEvent_error_iff {code : BitVec 2} : (∃ d, decodeEvent code = .error d) ↔ code = 3#2 := by
  have hcode := (by decide : ∀ c : BitVec 2, c = 0#2 ∨ c = 1#2 ∨ c = 2#2 ∨ c = 3#2) code
  rcases hcode with rfl | rfl | rfl | rfl <;> simp [decodeEvent]

/-- Commands and writes all decode; reads and events are refused as their own decoders say. -/
theorem decode_error_iff {e : Encoded} : (∃ d, decode enc e = .error d) ↔
    e = .evt 3#2 ∨ ∃ aa ii : Index, e = .read aa ii ∧ aa ≠ 0#2 ∧ enc.readRow aa ii = none := by
  cases e with
  | cmd op => simp [decode]
  | write aa ii v => simp [decode]
  | read aa ii => simpa [decode] using decodeRead_error_iff
  | evt code => simpa [decode] using decodeEvent_error_iff

end

/-- The spec's map has a row at every read pair of registers 1 to 3 (R67). -/
theorem readRow_specEncodings_ne_none :
    ∀ aa ii : Index, aa ≠ 0#2 → specEncodings.readRow aa ii ≠ none := by decide

/-- Settles O3: the refusals by the encoding's format; the spec's map leaves the event code alone. -/
theorem decoderRefusesOnlyTheUnusedEventCode : Obligations.DecoderRefusesOnlyTheUnusedEventCode := by
  refine ⟨fun enc e => decode_error_iff, fun e => decode_error_iff.trans (or_iff_left ?_)⟩
  rintro ⟨aa, ii, -, ha, hr⟩
  exact readRow_specEncodings_ne_none aa ii ha hr

end Sys2Proof

/-! ### Accesses that are no operation -/

namespace Sys2Proof.Machine

section
variable {s : State} {t : Transaction} {rest : List Transaction} {addr : Nat}

/-- An address outside the four registers has no offset. -/
theorem windowOffset_of_outside {cfg : Config} (h : addr < cfg.cdromBase ∨ cfg.cdromBase + 3 < addr) :
    windowOffset cfg addr = none :=
  if_neg (by omega)

/-- An address inside the window is the base plus an offset. -/
theorem exists_eq_cdromBase_add {cfg : Config} (hlo : cfg.cdromBase ≤ addr) (hhi : addr ≤ cfg.cdromBase + 3) :
    ∃ a : Index, addr = cfg.cdromBase + a.toNat := by
  refine ⟨BitVec.ofNat 2 (addr - cfg.cdromBase), ?_⟩
  rw [BitVec.toNat_ofNat]
  omega

theorem route_read_outside (width : Nat) (h : addr < s.cfg.cdromBase ∨ s.cfg.cdromBase + 3 < addr) :
    route s (.memRead addr width) = .error .accessOutsideWindow := by
  simp [route, windowOffset_of_outside h]

theorem route_write_outside (bytes : List Byte) (h : addr < s.cfg.cdromBase ∨ s.cfg.cdromBase + 3 < addr) :
    route s (.memWrite addr bytes) = .error .accessOutsideWindow := by
  simp [route, windowOffset_of_outside h]

/-- A read in the window that is neither one byte wide nor the word read at offset 2 (R63). -/
theorem route_read_wrongWidth {a : Index} {width : Nat} (hone : width ≠ 1) (hword : ¬(width = 4 ∧ a = 2#2)) :
    route s (.memRead (s.cfg.cdromBase + a.toNat) width) = .error .accessWidth := by
  simp [route, hone, hword]

theorem route_write_wrongWidth (a : Index) {bytes : List Byte} (h : bytes.length ≠ 1) :
    route s (.memWrite (s.cfg.cdromBase + a.toNat) bytes) = .error .accessWidth := by
  match bytes with
  | [] => simp [route]
  | [v] => exact absurd rfl h
  | v :: w :: more => simp [route]

/-- The front transaction that is routed nowhere is refused under the name that the routing gives. -/
theorem step_of_route_error {r : Refusal} (h : s.inbox = t :: rest) (hr : route s t = .error r) :
    step s = .refused r := by
  simp [step, h, fetch, hr]

/-- The front transaction whose encoding is the unused event code is refused (R93). -/
theorem step_of_unusedEventCode {e : Encoded} (h : s.inbox = t :: rest) (hr : route s t = .ok e)
    (hd : decode s.cfg.encodings e = .error .unusedEventCode) : step s = .refused .unusedEventCode := by
  simp [step, h, fetch, hr, hd]

end

/-- Settles O7: an access outside or of another width is routed nowhere, and event code 11 decodes to nothing. -/
theorem otherAccessesAreRefused : Obligations.OtherAccessesAreRefused := by
  refine fun s rest => ⟨?readOutside, ?writeOutside, ?readWidth, ?writeWidth, ?event⟩
  case readOutside => exact fun addr width h hout => step_of_route_error h (route_read_outside width hout)
  case writeOutside => exact fun addr bytes h hout => step_of_route_error h (route_write_outside bytes hout)
  case readWidth =>
    intro addr width h hlo hhi hone hword
    obtain ⟨a, rfl⟩ := exists_eq_cdromBase_add hlo hhi
    exact step_of_route_error h (route_read_wrongWidth hone fun ⟨hw, ha⟩ => hword ⟨hw, by rw [ha]; rfl⟩)
  case writeWidth =>
    intro addr bytes h hlo hhi hlen
    obtain ⟨a, rfl⟩ := exists_eq_cdromBase_add hlo hhi
    exact step_of_route_error h (route_write_wrongWidth a hlen)
  case event => exact fun h => step_of_unusedEventCode h rfl rfl

end Sys2Proof.Machine

/-! ### Words of the tables -/

namespace Sys2Proof

/-- Settles O4: each word is closed, and the decoder evaluates it. -/
theorem wordsOfTheSpecDecode : Obligations.WordsOfTheSpecDecode := by
  unfold Obligations.WordsOfTheSpecDecode
  decide

theorem decodeWord_eq_some_iff {enc : Encodings} {nbits w : Nat} {i : Instr} :
    decodeWord enc nbits w = some i ↔ decode enc (tableEncoding enc nbits w) = .ok i := by
  unfold decodeWord
  split <;> simp [*]

end Sys2Proof

/-! ### The step on a placed word -/

namespace Sys2Proof.Machine

/-- The write of the command register has the meaning of the command its byte decodes to (R125). -/
theorem exec_wrCmd_eq_exec_decodeCommand (op : Byte) (s : State) :
    exec (.wrCmd op) s = exec (decodeCommand s.cfg.encodings.opcodes op) s := by
  cases h : lookupCommand s.cfg.encodings.opcodes op with
  | none =>
    rw [exec_wrCmd_of_none h, decodeCommand_of_none h]
    rfl
  | some n => rw [exec_wrCmd_of_some h, decodeCommand_of_some h, exec_commandInstr]

/-- Where the map has a pair for the command register, the step after placing an encoding runs what it decodes to. A
command is placed as the write of its byte to that register, so the step runs `wrCmd`, which means the same. -/
theorem step_stage {s : State} {e : Encoded} {i : Instr}
    (hc : (s.cfg.encodings.writePair .command).isSome = true) (hd : decode s.cfg.encodings e = .ok i) :
    step (stage s e) = exec i { stage s e with inbox := s.inbox } := by
  cases e with
  | cmd op =>
    cases hd
    obtain ⟨⟨aa, ii⟩, hp⟩ := Option.isSome_iff_exists.mp hc
    have hw : decodeWrite s.cfg.encodings aa ii op = .wrCmd op := decodeWrite_of_some (writeRow_of_writePair hp)
    have hs : stage s (.cmd op) = stage s (.write aa ii op) := by simp only [stage, hp]
    rw [hs, step_of_decode (s := stage s (.write aa ii op)) rfl (route_byteWrite _ aa op) (congrArg Except.ok hw)]
    exact exec_wrCmd_eq_exec_decodeCommand op _
  | read aa ii => exact step_of_decode (s := stage s (.read aa ii)) rfl (route_byteRead _ aa) hd
  | write aa ii v => exact step_of_decode (s := stage s (.write aa ii v)) rfl (route_byteWrite _ aa v) hd
  | evt code => exact step_of_decode (s := stage s (.evt code)) rfl rfl hd

/-- Settles O8: a word is placed as its encoding; the spec's map has a pair for the command register. -/
theorem placedTableWordIsWhatTheNextStepRuns : Obligations.PlacedTableWordIsWhatTheNextStepRuns := by
  refine ⟨fun s nbits w i hc hw => ?anyMap, fun s nbits w i hs hw => ?specMap⟩
  case anyMap => exact step_stage (writePair_isSome hc .command) (decodeWord_eq_some_iff.mp hw)
  case specMap =>
    rw [decodeTableWord, ← hs] at hw
    have hc : (s.cfg.encodings.writePair .command).isSome = true := by
      rw [hs]
      decide
    exact step_stage hc (decodeWord_eq_some_iff.mp hw)

end Sys2Proof.Machine

/-! ### The register file -/

namespace Sys2Proof.Machine

/-- Settles O9: with an opcode of R96 both sides are its command, with any other byte both are Unknown. -/
theorem commandWriteRunsTheDecodedCommand : Obligations.CommandWriteRunsTheDecodedCommand :=
  exec_wrCmd_eq_exec_decodeCommand

section
variable {s : State}

/-- With no fatal latched an operation goes on to the state its update gives. -/
theorem exec_of_clear {i : Instr} {f : State → State} (h : s.cdc.fatal = none)
    (hf : Meaning s.cfg.encodings.opcodes i f) : exec i s = .next (f s) := by
  rw [exec_of_meaning hf, operate_of_clear h]

/-! The response queue, from the host's side. -/

theorem exec_rdResp_cons {b : Byte} {rest : List Byte} (ii : Index) (h : s.cdc.fatal = none)
    (hr : s.cdc.respFifo = b :: rest) :
    exec (.rdResp ii) s = .next { s with cdc := { s.cdc with respFifo := rest }, readValue := some (.byte b) } := by
  rw [exec_of_clear h (.rdResp ii), readResponse_cons hr]
  rfl

theorem exec_rdResp_nil (ii : Index) (h : s.cdc.fatal = none) (hr : s.cdc.respFifo = []) :
    exec (.rdResp ii) s = .next { s with readValue := some (.byte s.cfg.emptyReadValue) } := by
  rw [exec_of_clear h (.rdResp ii), readResponse_nil hr]
  rfl

/-- The step on a byte read at an offset where the map has the response register. -/
theorem step_respRead {a ii : Index} {b : Byte} {bytes : List Byte} {rest : List Transaction}
    (h : s.cdc.fatal = none) (hd : decodeRead s.cfg.encodings a s.cdc.index = .ok (.rdResp ii))
    (hi : s.inbox = .memRead (s.cfg.cdromBase + a.toNat) 1 :: rest) (hr : s.cdc.respFifo = b :: bytes) :
    step s = .next { s with
      cdc := { s.cdc with respFifo := bytes }, inbox := rest, readValue := some (.byte b) } := by
  rw [step_of_decode hi (route_byteRead s a) hd]
  exact exec_rdResp_cons (s := { s with inbox := rest }) ii h hr

/-- A run of reads of the response register answers with the byte that the last read reaches, and leaves those after
it. -/
theorem run_respReads (k : Nat) {a ii : Index} (hk : k < s.cdc.respFifo.length) (h : s.cdc.fatal = none)
    (hd : decodeRead s.cfg.encodings a s.cdc.index = .ok (.rdResp ii))
    (hi : s.inbox = List.replicate (k + 1) (.memRead (s.cfg.cdromBase + a.toNat) 1)) :
    ∃ t : State, Host.Core.run Sys2Proof.core (k + 1) s = .next t ∧
      t.readValue = some (.byte s.cdc.respFifo[k]) ∧ t.cdc.respFifo = s.cdc.respFifo.drop (k + 1) ∧
      t.cdc.irqFifo = s.cdc.irqFifo := by
  induction k generalizing s with
  | zero =>
    obtain ⟨b, bytes, hr⟩ := List.exists_cons_of_length_pos hk
    exact ⟨_, run_succ (step_respRead h hd hi hr) rfl, by simp [hr], by simp [hr], rfl⟩
  | succ k ih =>
    obtain ⟨b, bytes, hr⟩ := List.exists_cons_of_length_pos (Nat.zero_lt_of_lt hk)
    have hbytes : k < bytes.length := by simpa [hr] using hk
    obtain ⟨t, hrun, hvalue, hresp, hirq⟩ := ih (s := { s with
      cdc := { s.cdc with respFifo := bytes }
      inbox := List.replicate (k + 1) (.memRead (s.cfg.cdromBase + a.toNat) 1)
      readValue := some (.byte b) }) hbytes h hd rfl
    exact ⟨t, run_succ (step_respRead h hd hi hr) hrun, by simpa [hr] using hvalue, by simpa [hr] using hresp, hirq⟩

end

/-- Settles O36: the two cases of the response read. -/
theorem responseReadPopsOneByte : Obligations.ResponseReadPopsOneByte :=
  fun _ ii h => ⟨fun _ _ hr => exec_rdResp_cons ii h hr, exec_rdResp_nil ii h⟩

/-- Settles O50: the run by induction on its length; the spec's map has the response register at offset 1. -/
theorem responsesComeOutInPushOrder : Obligations.ResponsesComeOutInPushOrder :=
  ⟨fun k _ _ _ hk h hd hi => run_respReads k hk h hd hi, by decide⟩

/-! The status register: no flag stands in the bit of another or of the index. -/

/-- The bits of a layout of the status register, the index's two first. -/
def statBitPositions (b : StatBits) : List Nat :=
  [b.index.val, b.index.val + 1, b.adpcm.val, b.prmEmpty.val, b.prmWritable.val, b.rspNonempty.val,
    b.dataNonempty.val, b.busy.val]

theorem statBitPositions_nodup {b : StatBits} (h : b.wellFormed = true) : (statBitPositions b).Nodup :=
  of_decide_eq_true h

/-- The index field is 0 outside its two bits. -/
theorem getLsbD_indexField_of_ne {p k : Nat} (index : Index) (h0 : k ≠ p) (h1 : k ≠ p + 1) :
    (decide (p ≤ k) && index.getLsbD (k - p)) = false := by
  by_cases hk : p ≤ k
  · rw [BitVec.getLsbD_of_ge _ _ (by omega), Bool.and_false]
  · rw [decide_eq_false hk, Bool.false_and]

section
variable {cfg : Config} (c : Cdc)

/-- Each flag is read at its own bit: there every other term of the register is 0, because the layout's bits differ. -/
theorem getLsbD_stat_flags (h : cfg.statBits.wellFormed = true) :
    (stat cfg c).getLsbD cfg.statBits.busy = c.busy ∧
      (stat cfg c).getLsbD cfg.statBits.dataNonempty = dataAvailable cfg c ∧
      (stat cfg c).getLsbD cfg.statBits.rspNonempty = decide (0 < c.respFifo.length) ∧
      (stat cfg c).getLsbD cfg.statBits.prmWritable = decide (c.paramFifo.length < fifoCap) ∧
      (stat cfg c).getLsbD cfg.statBits.prmEmpty = decide (c.paramFifo.length = 0) ∧
      (stat cfg c).getLsbD cfg.statBits.adpcm = c.adpcmEmpty := by
  have hd := statBitPositions_nodup h
  have hd' := List.nodup_reverse.mpr hd
  simp only [statBitPositions, List.reverse_cons, List.reverse_nil, List.nil_append, List.cons_append, List.nodup_cons,
    List.mem_cons, List.not_mem_nil, not_or, or_false] at hd hd'
  refine ⟨?busy, ?data, ?rsp, ?writable, ?empty, ?adpcm⟩
  all_goals
    rw [getLsbD_stat _ _ (Fin.isLt _), getLsbD_indexField_of_ne] <;> simp [-BitVec.getLsbD_eq_getElem, hd, hd']

/-- The index is read at its own two bits. -/
theorem extractLsb'_stat_index (h : cfg.statBits.wellFormed = true) :
    (stat cfg c).extractLsb' cfg.statBits.index 2 = c.index := by
  have hd := statBitPositions_nodup h
  simp only [statBitPositions, List.nodup_cons, List.mem_cons, List.not_mem_nil, not_or, or_false] at hd
  have hlt := cfg.statBits.index.isLt
  apply BitVec.eq_of_getLsbD_eq
  intro k hk
  rw [BitVec.getLsbD_extractLsb', getLsbD_stat _ _ (by omega)]
  obtain rfl | rfl : k = 0 ∨ k = 1 := by omega
  · simp [-BitVec.getLsbD_eq_getElem, hd]
  · simp [-BitVec.getLsbD_eq_getElem, hd]

theorem dataAvailable_of_none (h : c.active = none) : dataAvailable cfg c = false := by
  simp [dataAvailable, h]

theorem dataAvailable_of_some {d : SectorData} (h : c.active = some d) :
    dataAvailable cfg c = decide (c.cursor < payloadLen cfg c) := by
  simp [dataAvailable, h]

/-- R34, with the test of the mode written as a proposition. -/
theorem payloadLen_eq (cfg : Config) :
    payloadLen cfg c = if c.mode &&& cfg.modeWholeSector ≠ 0#8 then (cfg.payloadWhole : Nat) else payloadDataOnly := by
  simp [payloadLen, wholeSector]

end

/-- Settles O34: the byte is `stat`, whose bits are the flags and the index. -/
theorem statusReadReportsTheFlags : Obligations.StatusReadReportsTheFlags := by
  intro s ii h hb
  obtain ⟨hbusy, hdata, hrsp, hwritable, hempty, hadpcm⟩ := getLsbD_stat_flags s.cdc hb
  refine ⟨stat s.cfg s.cdc, exec_of_clear h (.rdStat ii), hbusy, hdata.trans ?_, hrsp, hwritable, hempty, hadpcm,
    extractLsb'_stat_index s.cdc hb⟩
  split
  · next hactive => exact dataAvailable_of_none s.cdc hactive
  · next d hactive =>
    rw [dataAvailable_of_some s.cdc hactive, payloadLen_eq]
    rfl

/-! The other registers. -/

/-- Settles O35: the update stores the index and nothing else. -/
theorem indexWriteStoresTwoBits : Obligations.IndexWriteStoresTwoBits :=
  fun _ ii v h => exec_of_clear h (.wrIndex ii v)

theorem pushParam_fits {s : State} (v : Byte) (h : s.cdc.paramFifo.length < fifoCap) :
    pushParam v s = s.onCdc fun c => { c with paramFifo := c.paramFifo ++ [v] } := if_pos h

theorem pushParam_full {s : State} (v : Byte) (h : fifoCap ≤ s.cdc.paramFifo.length) :
    pushParam v s = s.note (.parameterOverflow v) := if_neg (Nat.not_lt.mpr h)

/-- Settles O37: the append with room for the byte, and the drop without. -/
theorem parameterWriteAppendsOrDrops : Obligations.ParameterWriteAppendsOrDrops := by
  intro s v h
  rw [exec_of_clear h (.wrParam v)]
  exact ⟨fun hlt => congrArg _ (pushParam_fits v hlt), fun hge => congrArg _ (pushParam_full v hge)⟩

/-- Settles O39: the whole byte is stored, and the read answers with it. -/
theorem interruptEnableIsStoredAndReadBack : Obligations.InterruptEnableIsStoredAndReadBack :=
  fun _ v i h => ⟨exec_of_clear h (.wrIrqen v), exec_of_clear h (.rdIrqen i)⟩

theorem irqFlag_nil {c : Cdc} (h : c.irqFifo = []) : irqFlag c = 0x00#8 := by
  simp [irqFlag, h]

theorem irqFlag_cons {c : Cdc} {code : IrqCode} {rest : List IrqCode} (h : c.irqFifo = code :: rest) :
    irqFlag c = code.setWidth 8 := by
  simp [irqFlag, h]

/-- Settles O40: the answer is `irqFlag`, which reads the front of the queue. -/
theorem interruptFlagReadInspectsTheFront : Obligations.InterruptFlagReadInspectsTheFront := by
  intro s i h
  rw [exec_of_clear h (.rdIrqflag i)]
  exact ⟨fun code rest hq => by rw [irqFlag_cons hq]; rfl, fun hq => by rw [irqFlag_nil hq]; rfl⟩

theorem acknowledge_eq (cfg : Config) (v : Byte) (c : Cdc) :
    acknowledge cfg v c = { c with
      irqFifo := if v &&& cfg.ackPopMask ≠ 0#8 then c.irqFifo.drop 1 else c.irqFifo
      paramFifo := if v &&& cfg.ackParamReset ≠ 0#8 then [] else c.paramFifo } := by
  simp [acknowledge]

/-- Settles O41: the two masks act on the two queues, each on its own. -/
theorem acknowledgePopsAtMostOneCode : Obligations.AcknowledgePopsAtMostOneCode := by
  intro s v h
  rw [exec_of_clear h (.wrIrqack v), ← acknowledge_eq]
  rfl

theorem request_discards (s : State) : request false s = s.onCdc fun c => { c with active := none, cursor := 0 } := rfl

theorem request_adopts {s : State} (h : dataAvailable s.cfg s.cdc = false) :
    request true s = s.onCdc fun c => { c with active := c.rawSector, cursor := 0 } := by
  simp [request, h]

theorem request_refuses {s : State} (h : dataAvailable s.cfg s.cdc = true) : request true s = s := by
  simp [request, h]

/-- Data is available while there is a buffer with the cursor before its end (R263). -/
theorem dataAvailable_iff {cfg : Config} {c : Cdc} :
    dataAvailable cfg c = true ↔ c.active ≠ none ∧ c.cursor < payloadLen cfg c := by
  simp [dataAvailable, Option.isSome_iff_ne_none]

/-- Settles O42: bit 7 is the request; adopting waits until no data is available. -/
theorem requestAdoptsOnlyWhenDrained : Obligations.RequestAdoptsOnlyWhenDrained := by
  intro s v h
  rw [exec_of_clear h (.wrReq v)]
  refine ⟨?discards, ?adopts, ?refuses⟩
  case discards =>
    intro hv
    rw [hv, request_discards]
    rfl
  case adopts =>
    intro hv hdrained
    have hn : dataAvailable s.cfg s.cdc = false := by
      rw [← Bool.not_eq_true, dataAvailable_iff]
      rintro ⟨hactive, hlt⟩
      exact hdrained.elim hactive (Nat.not_le.mpr hlt)
    rw [hv, request_adopts hn]
    rfl
  case refuses =>
    intro hv hactive hlt
    rw [hv, request_refuses (dataAvailable_iff.mpr ⟨hactive, hlt⟩)]

/-- A no-op row records its diagnostic and does nothing more (R150). -/
theorem ignoreWrite_of_clear {s : State} (aa ii : Index) (v : Byte) (h : s.cdc.fatal = none) :
    ignoreWrite aa ii v s = .next { s with log := s.log ++ [.ignoredWrite aa ii v] } :=
  operate_of_clear h _

/-- Settles O43: each of the seven rows is the ignored write at its own pair. -/
theorem writesWithNoTargetChangeNothing : Obligations.WritesWithNoTargetChangeNothing := by
  intro s v h
  refine ⟨?nop11, ?nop12, ?nop13, ?nop22, ?nop23, ?nop32, ?nop33⟩
  all_goals exact ignoreWrite_of_clear _ _ v h

end Sys2Proof.Machine

/-! ### The commands

Step (1) leaves the two queues empty, so what a command pushes fits: its body is settled by the codes and bytes it
queues and by what it makes of the rest of the state. -/

namespace Sys2Proof.Machine

/-- The state with these two queues. -/
def State.queued (s : State) (codes : List IrqCode) (bytes : List Byte) : State :=
  s.onCdc fun c => { c with irqFifo := codes, respFifo := bytes }

def State.withParams (s : State) (params : List Byte) : State := s.onCdc fun c => { c with paramFifo := params }

def State.withDrive (s : State) (d : Byte) : State := s.onCdc fun c => { c with drive := d }

/-- From empty queues the body queues `codes` and `bytes`, within the bounds of R179, and makes `t` of the rest of the
state, with no fatal. -/
structure Answers (body : State → State) (s t : State) (codes : List IrqCode) (bytes : List Byte) : Prop where
  body_eq : body (clearResponses s) = t.queued codes bytes
  no_fatal : t.cdc.fatal = none
  codes_bounded : 1 ≤ codes.length ∧ codes.length ≤ 2
  bytes_bounded : 1 ≤ bytes.length ∧ bytes.length ≤ 9

section
variable {s t : State} {code : IrqCode} {bytes : List Byte}

/-! The first envelope and the second. -/

theorem push_clearResponses (s : State) (h : bytes.length ≤ fifoCap) :
    push code bytes (clearResponses s) = s.queued [code] bytes := by
  rw [push_fits (by simp [fifoCap]) (by simpa using h)]
  rfl

theorem pushAck_clearResponses (s : State) : pushAck (clearResponses s) = s.queued [s.cfg.intAck] [s.cdc.drive] :=
  push_clearResponses s (by simp [fifoCap])

theorem push_queued_one (s : State) {c : IrqCode} {b : Byte} (h : bytes.length < fifoCap) :
    push code bytes (s.queued [c] [b]) = s.queued [c, code] (b :: bytes) := by
  have hfits : (s.queued [c] [b]).cdc.respFifo.length + bytes.length ≤ fifoCap :=
    (Nat.add_comm 1 bytes.length).trans_le h
  rw [push_fits (by simp [State.queued, fifoCap]) hfits]
  rfl

theorem popParam_clearResponses {b : Byte} {rest : List Byte} (h : s.cdc.paramFifo = b :: rest)
    (k : Byte → State → State) : popParam k (clearResponses s) = k b (clearResponses (s.withParams rest)) :=
  popParam_cons (s := clearResponses s) h k

/-- A body that pushes one envelope answers with it. -/
theorem Answers.of_push {body : State → State} (he : body (clearResponses s) = push code bytes (clearResponses t))
    (ht : t.cdc.fatal = none) (hpos : 1 ≤ bytes.length) (hle : bytes.length ≤ 9) : Answers body s t [code] bytes where
  body_eq := he.trans (push_clearResponses t (hle.trans (by decide)))
  no_fatal := ht
  codes_bounded := by simp
  bytes_bounded := ⟨hpos, hle⟩

/-- A body that pushes a second envelope after an acknowledge answers with both. -/
theorem Answers.of_second_push {body : State → State} {c : IrqCode} {b : Byte}
    (he : body (clearResponses s) = push code bytes (t.queued [c] [b])) (ht : t.cdc.fatal = none)
    (hle : bytes.length ≤ 8) : Answers body s t [c, code] (b :: bytes) where
  body_eq := he.trans (push_queued_one t (hle.trans_lt (by decide)))
  no_fatal := ht
  codes_bounded := by simp
  bytes_bounded := ⟨by simp, Nat.succ_le_succ hle⟩

/-- A second envelope that is the done carries the status of its moment (R173). -/
theorem Answers.of_second_done {body : State → State} {c : IrqCode} {b : Byte}
    (he : body (clearResponses s) = pushDone (t.queued [c] [b])) (ht : t.cdc.fatal = none) :
    Answers body s t [c, t.cfg.intDone] [b, t.cdc.drive] :=
  .of_second_push he ht (by simp)

/-- A command that answers completes with step (6), as its row or as the byte of a command write. -/
theorem Answers.exec_eq {i : Instr} {body : State → State} {codes : List IrqCode}
    (ha : Answers body s t codes bytes) (h : s.cdc.fatal = none)
    (hm : Meaning s.cfg.encodings.opcodes i (dispatch body)) :
    exec i s = .next (finishCommand (t.queued codes bytes)) := by
  have hclear : (body (clearResponses s)).cdc.fatal = none := by
    rw [ha.body_eq]
    exact ha.no_fatal
  rw [exec_of_clear h hm, dispatch_of_clear hclear, ha.body_eq]

theorem Answers.exec_command {n : CommandName} {codes : List IrqCode}
    (ha : Answers (commandBody n) s t codes bytes) (h : s.cdc.fatal = none) :
    exec (commandInstr n) s = .next (finishCommand (t.queued codes bytes)) :=
  ha.exec_eq h (.command n (.inl rfl))

end

/-! What each command answers. -/

section
variable {s : State} (h : s.cdc.fatal = none)
include h

theorem getstat_answers : Answers (commandBody .getstat) s s [s.cfg.intAck] [s.cdc.drive] :=
  .of_push rfl h (by simp) (by simp)

theorem setloc_answers {mm ss ff : Byte} {rest : List Byte} (hp : s.cdc.paramFifo = mm :: ss :: ff :: rest) :
    Answers (commandBody .setloc) s
      ((s.withParams rest).onCdc fun c => { c with seekTarget := setlocOperand mm ss ff })
      [s.cfg.intAck] [s.cdc.drive] := by
  refine .of_push ?_ h (by simp) (by simp)
  rw [commandBody, bodySetloc, popParam_clearResponses hp, popParam_clearResponses rfl, popParam_clearResponses rfl]
  rfl

theorem play_answers : Answers (commandBody .play) s (startAt .playing s) [s.cfg.intAck]
    [setTag s.cfg.driveBits .playing s.cdc.drive] :=
  .of_push rfl h (by simp) (by simp)

theorem readN_answers : Answers (commandBody .readN) s (startAt .reading s) [s.cfg.intAck]
    [setTag s.cfg.driveBits .reading s.cdc.drive] :=
  .of_push rfl h (by simp) (by simp)

theorem readS_answers : Answers (commandBody .readS) s (startAt .reading s) [s.cfg.intAck]
    [setTag s.cfg.driveBits .reading s.cdc.drive] :=
  readN_answers h

theorem motorOn_answers : Answers (commandBody .motorOn) s
    (s.withDrive (s.cdc.drive ||| bitMask s.cfg.driveBits.motorOn)) [s.cfg.intAck, s.cfg.intDone]
    [s.cdc.drive ||| bitMask s.cfg.driveBits.motorOn, s.cdc.drive ||| bitMask s.cfg.driveBits.motorOn] :=
  .of_second_done (congrArg pushDone (pushAck_clearResponses (s.withDrive _))) h

theorem stop_answers : Answers (commandBody .stop) s
    (s.withDrive (setTag s.cfg.driveBits .stopped s.cdc.drive &&& ~~~bitMask s.cfg.driveBits.motorOn))
    [s.cfg.intAck, s.cfg.intDone]
    [setTag s.cfg.driveBits .stopped s.cdc.drive &&& ~~~bitMask s.cfg.driveBits.motorOn,
      setTag s.cfg.driveBits .stopped s.cdc.drive &&& ~~~bitMask s.cfg.driveBits.motorOn] :=
  .of_second_done (congrArg pushDone (pushAck_clearResponses (s.withDrive _))) h

theorem pause_answers : Answers (commandBody .pause) s (s.withDrive (setTag s.cfg.driveBits .stopped s.cdc.drive))
    [s.cfg.intAck, s.cfg.intDone] [s.cdc.drive, setTag s.cfg.driveBits .stopped s.cdc.drive] := by
  refine .of_second_done ?_ h
  rw [commandBody, bodyPause, pushAck_clearResponses]
  rfl

theorem init_answers : Answers (commandBody .init) s (s.withDrive (0x00#8 ||| bitMask s.cfg.driveBits.motorOn))
    [s.cfg.intAck, s.cfg.intDone] [s.cdc.drive, 0x00#8 ||| bitMask s.cfg.driveBits.motorOn] := by
  refine .of_second_done ?_ h
  rw [commandBody, bodyInit, pushAck_clearResponses]
  rfl

theorem mute_answers : Answers (commandBody .mute) s (s.onCdc fun c => { c with mute := true })
    [s.cfg.intAck] [s.cdc.drive] :=
  .of_push rfl h (by simp) (by simp)

theorem demute_answers : Answers (commandBody .demute) s (s.onCdc fun c => { c with mute := false })
    [s.cfg.intAck] [s.cdc.drive] :=
  .of_push rfl h (by simp) (by simp)

theorem setmode_answers {p : Byte} {rest : List Byte} (hp : s.cdc.paramFifo = p :: rest)
    (hmode : p &&& s.cfg.modeUnsupportedMask = 0#8) :
    Answers (commandBody .setmode) s ((s.withParams rest).onCdc fun c => { c with mode := p })
      [s.cfg.intAck] [s.cdc.drive] := by
  refine .of_push ?_ h (by simp) (by simp)
  rw [commandBody, bodySetmode, popParam_clearResponses hp]
  exact if_neg (by simpa [State.withParams] using hmode)

theorem getparam_answers :
    Answers (commandBody .getparam) s s [s.cfg.intAck] (s.cdc.drive :: s.cfg.getparamReserved.toList) :=
  .of_push rfl h (by simp) (by simp)

theorem getTN_answers : Answers (commandBody .getTN) s s [s.cfg.intAck]
    [s.cdc.drive, bcdEnc s.cfg.firstTrack, bcdEnc s.disc.trackCount] :=
  .of_push rfl h (by simp) (by simp)

theorem getTD_answers {p : Byte} {rest : List Byte} (hp : s.cdc.paramFifo = p :: rest) :
    Answers (commandBody .getTD) s (s.withParams rest) [s.cfg.intAck]
      [s.cdc.drive, bcdEnc (trackPosition s.disc (bcdDec p)).m, bcdEnc (trackPosition s.disc (bcdDec p)).s] := by
  refine .of_push ?_ h (by simp) (by simp)
  rw [commandBody, bodyGetTD, popParam_clearResponses hp]
  rfl

theorem seekL_answers : Answers (commandBody .seekL) s (startAt .seeking s) [s.cfg.intAck, s.cfg.intDone]
    [s.cdc.drive, setTag s.cfg.driveBits .seeking s.cdc.drive] := by
  refine .of_second_done ?_ h
  rw [commandBody, bodySeekL, pushAck_clearResponses]
  rfl

theorem test_answers_identification {rest : List Byte} (hp : s.cdc.paramFifo = testSubfnId :: rest) :
    Answers (commandBody .test) s (s.withParams rest) [s.cfg.intAck] s.cfg.testIdBytes.toList := by
  refine .of_push ?_ h (by simp) (by simp)
  rw [commandBody, bodyTest, popParam_clearResponses hp, if_pos rfl]
  rfl

theorem test_answers_error {p : Byte} {rest : List Byte} (hp : s.cdc.paramFifo = p :: rest) (hne : p ≠ testSubfnId) :
    Answers (commandBody .test) s (s.withParams rest) [s.cfg.intError] errUnknownPayload := by
  refine .of_push ?_ h (by decide) (by decide)
  rw [commandBody, bodyTest, popParam_clearResponses hp, if_neg hne]
  rfl

theorem getID_answers_open (hopen : s.cdc.drive.getLsbD s.cfg.driveBits.shellOpen = true) :
    Answers (commandBody .getID) s s [s.cfg.intError] errUnknownPayload :=
  .of_push (if_pos hopen) h (by decide) (by decide)

theorem getID_answers_noDisc (hshut : s.cdc.drive.getLsbD s.cfg.driveBits.shellOpen = false)
    (hempty : s.disc.isEmpty = true) :
    Answers (commandBody .getID) s s [s.cfg.intAck, s.cfg.intError] (s.cdc.drive :: errNoDiscPayload) := by
  refine .of_second_push ?_ h (by decide)
  simp only [commandBody, bodyGetID, clearResponses_cdc, clearResponses_cfg, clearResponses_disc, hshut, hempty,
    pushAck_clearResponses, Bool.false_eq_true, if_false, if_true]

theorem getID_answers_disc (hshut : s.cdc.drive.getLsbD s.cfg.driveBits.shellOpen = false)
    (hdisc : s.disc.isEmpty = false) :
    Answers (commandBody .getID) s s [s.cfg.intAck, s.cfg.intDone]
      (s.cdc.drive :: s.cfg.getidOkPayload.toList) := by
  refine .of_second_push ?_ h (by simp)
  simp only [commandBody, bodyGetID, clearResponses_cdc, clearResponses_cfg, clearResponses_disc, hshut, hdisc,
    pushAck_clearResponses, Bool.false_eq_true, if_false]

theorem unknown_answers (op : Byte) :
    Answers (bodyUnknown op) s (s.note (.unknownOpcode op)) [s.cfg.intError] errUnknownPayload :=
  .of_push rfl h (by decide) (by decide)

end

/-- The parameters a command needs are queued (R300), and Setmode's is supported (R301). -/
def Supplied (s : State) : CommandName → Prop
  | .setloc => 3 ≤ s.cdc.paramFifo.length
  | .setmode => 1 ≤ s.cdc.paramFifo.length ∧ s.cdc.paramFifo.headD 0#8 &&& s.cfg.modeUnsupportedMask = 0#8
  | .getTD | .test => 1 ≤ s.cdc.paramFifo.length
  | _ => True

section
variable {s : State} (h : s.cdc.fatal = none)
include h

theorem exists_setloc_answers (hp : 3 ≤ s.cdc.paramFifo.length) :
    ∃ t codes bytes, Answers (commandBody .setloc) s t codes bytes := by
  rcases hq : s.cdc.paramFifo with _ | ⟨mm, _ | ⟨ss, _ | ⟨ff, rest⟩⟩⟩
  case cons.cons.cons => exact ⟨_, _, _, setloc_answers h hq⟩
  all_goals simp [hq] at hp

theorem exists_test_answers (hp : 1 ≤ s.cdc.paramFifo.length) :
    ∃ t codes bytes, Answers (commandBody .test) s t codes bytes := by
  obtain ⟨p, rest, hp⟩ := List.exists_cons_of_length_pos hp
  by_cases hid : p = testSubfnId
  · exact ⟨_, _, _, test_answers_identification h (hid ▸ hp)⟩
  · exact ⟨_, _, _, test_answers_error h hp hid⟩

theorem exists_getID_answers : ∃ t codes bytes, Answers (commandBody .getID) s t codes bytes := by
  cases hshell : s.cdc.drive.getLsbD s.cfg.driveBits.shellOpen with
  | true => exact ⟨_, _, _, getID_answers_open h hshell⟩
  | false =>
    cases hdisc : s.disc.isEmpty with
    | true => exact ⟨_, _, _, getID_answers_noDisc h hshell hdisc⟩
    | false => exact ⟨_, _, _, getID_answers_disc h hshell hdisc⟩

/-- Every command with what it needs answers. -/
theorem exists_command_answers (n : CommandName) (hs : Supplied s n) :
    ∃ t codes bytes, Answers (commandBody n) s t codes bytes := by
  cases n with
  | getstat => exact ⟨_, _, _, getstat_answers h⟩
  | setloc => exact exists_setloc_answers h hs
  | play => exact ⟨_, _, _, play_answers h⟩
  | readN => exact ⟨_, _, _, readN_answers h⟩
  | motorOn => exact ⟨_, _, _, motorOn_answers h⟩
  | stop => exact ⟨_, _, _, stop_answers h⟩
  | pause => exact ⟨_, _, _, pause_answers h⟩
  | init => exact ⟨_, _, _, init_answers h⟩
  | mute => exact ⟨_, _, _, mute_answers h⟩
  | demute => exact ⟨_, _, _, demute_answers h⟩
  | setmode =>
    obtain ⟨hlen, hmode⟩ := hs
    obtain ⟨p, rest, hp⟩ := List.exists_cons_of_length_pos hlen
    rw [hp] at hmode
    exact ⟨_, _, _, setmode_answers h hp hmode⟩
  | getparam => exact ⟨_, _, _, getparam_answers h⟩
  | getTN => exact ⟨_, _, _, getTN_answers h⟩
  | getTD =>
    obtain ⟨p, rest, hp⟩ := List.exists_cons_of_length_pos hs
    exact ⟨_, _, _, getTD_answers h hp⟩
  | seekL => exact ⟨_, _, _, seekL_answers h⟩
  | test => exact exists_test_answers h hs
  | getID => exact exists_getID_answers h
  | readS => exact ⟨_, _, _, readS_answers h⟩

end

/-- Every byte written to the command register is the dispatch of some body. -/
theorem exists_wrCmd_body (o : Opcodes) (op : Byte) : ∃ body, Meaning o (.wrCmd op) (dispatch body) := by
  cases hl : lookupCommand o op with
  | none => exact ⟨_, .unknownByte hl⟩
  | some n => exact ⟨_, .command n (.inr ⟨op, rfl, hl⟩)⟩

/-- A dispatch, behind its test of the latch, reads neither the response nor the interrupt queue. -/
theorem operate_dispatch_forgets (body : State → State) (s : State) (resp : List Byte) (irq : List IrqCode) :
    operate (dispatch body) { s with cdc := { s.cdc with respFifo := resp, irqFifo := irq } } =
      operate (dispatch body) s := by
  have hd : dispatch body { s with cdc := { s.cdc with respFifo := resp, irqFifo := irq } } = dispatch body s := by
    rw [dispatch, clearResponses_forgets, dispatch]
  rw [operate, hd, operate]

/-- Settles O10: the dispatch behind the write starts by emptying the two queues. -/
theorem commandDiscardsEarlierResponses : Obligations.CommandDiscardsEarlierResponses := by
  intro op s resp irq
  obtain ⟨body, hm⟩ := exists_wrCmd_body s.cfg.encodings.opcodes op
  have hexec (u : State) (hu : u.cfg = s.cfg) : exec (.wrCmd op) u = operate (dispatch body) u :=
    exec_of_meaning (hu ▸ hm)
  exact ⟨rfl, (hexec _ (by rfl)).trans ((operate_dispatch_forgets body s resp irq).trans (hexec s rfl).symm)⟩

/-- Settles O11: the byte's command, or Unknown, answers within the bounds of R179. -/
theorem commandWriteCompletesWhenSupplied : Obligations.CommandWriteCompletesWhenSupplied := by
  intro op s h hsetloc hone hmode
  obtain ⟨body, t, codes, bytes, hm, ha⟩ : ∃ body t codes bytes,
      Meaning s.cfg.encodings.opcodes (.wrCmd op) (dispatch body) ∧ Answers body s t codes bytes := by
    cases hl : lookupCommand s.cfg.encodings.opcodes op with
    | none => exact ⟨_, _, _, _, .unknownByte hl, unknown_answers h op⟩
    | some n =>
      have hop := of_lookupCommand hl
      have hs : Supplied s n := by
        cases n with
        | setloc => exact hsetloc hop.symm
        | setmode => exact ⟨hone (.inl hop.symm), hmode hop.symm⟩
        | getTD => exact hone (.inr (.inl hop.symm))
        | test => exact hone (.inr (.inr hop.symm))
        | _ => trivial
      obtain ⟨t, codes, bytes, ha⟩ := exists_command_answers h n hs
      exact ⟨_, t, codes, bytes, .command n (.inr ⟨op, rfl, hl⟩), ha⟩
  exact ⟨_, ha.exec_eq h hm, ha.no_fatal, rfl, rfl, ha.codes_bounded.1, ha.codes_bounded.2, ha.bytes_bounded.1,
    ha.bytes_bounded.2⟩

/-! The whole next state of each command. -/

theorem setTag_stopped (b : DriveBits) (d : Byte) : setTag b .stopped d = d &&& ~~~stateMask b := BitVec.or_zero

/-- Settles O12: the acknowledge and nothing else. -/
theorem getstatAcknowledges : Obligations.GetstatAcknowledges :=
  fun _ h => (getstat_answers h).exec_command h

/-- Settles O13: the three parameters popped are the operand. -/
theorem setlocStoresTheSeekTarget : Obligations.SetlocStoresTheSeekTarget :=
  fun _ _ _ _ _ h hp => (setloc_answers h hp).exec_command h

/-- Settles O14: the status is set before the acknowledge. -/
theorem playStartsAtTheSeekTarget : Obligations.PlayStartsAtTheSeekTarget := by
  rintro s d h rfl
  exact (play_answers h).exec_command h

/-- Settles O15: one operation under two opcodes. -/
theorem readCommandsStartAtTheSeekTarget : Obligations.ReadCommandsStartAtTheSeekTarget := by
  rintro i s d (rfl | rfl) h rfl
  · exact (readN_answers h).exec_command h
  · exact (readS_answers h).exec_command h

/-- Settles O16: the flag is set before both envelopes. -/
theorem motorOnSetsTheMotorFlag : Obligations.MotorOnSetsTheMotorFlag := by
  rintro s d h rfl
  exact (motorOn_answers h).exec_command h

/-- Settles O17: Stopped has no bit of its own. -/
theorem stopClearsStateAndMotor : Obligations.StopClearsStateAndMotor := by
  rintro s d h rfl
  rw [← setTag_stopped]
  exact (stop_answers h).exec_command h

/-- Settles O18: Stopped has no bit of its own. -/
theorem pauseStopsBetweenItsEnvelopes : Obligations.PauseStopsBetweenItsEnvelopes := by
  rintro s d h rfl
  rw [← setTag_stopped]
  exact (pause_answers h).exec_command h

/-- Settles O19: the status is cleared before the motor flag is set. -/
theorem initResetsTheDriveStatus : Obligations.InitResetsTheDriveStatus := by
  rintro s d h rfl
  rw [← BitVec.zero_or (x := bitMask s.cfg.driveBits.motorOn)]
  exact (init_answers h).exec_command h

/-- Settles O20: each acknowledges after writing the flag. -/
theorem muteSetsAndDemuteClears : Obligations.MuteSetsAndDemuteClears :=
  fun _ h => ⟨(mute_answers h).exec_command h, (demute_answers h).exec_command h⟩

/-- Settles O21: the supported byte is stored as popped. -/
theorem setmodeStoresTheModeByte : Obligations.SetmodeStoresTheModeByte :=
  fun _ _ _ h hp hmode => (setmode_answers h hp hmode).exec_command h

/-- Settles O22: one envelope of three bytes. -/
theorem getparamAnswersStatusAndReservedBytes : Obligations.GetparamAnswersStatusAndReservedBytes :=
  fun _ h => (getparam_answers h).exec_command h

/-- Settles O23: one envelope of three bytes. -/
theorem getTNAnswersTheTrackNumbers : Obligations.GetTNAnswersTheTrackNumbers :=
  fun _ h => (getTN_answers h).exec_command h

/-- Settles O24: `trackPosition` is the end of the disc for track 0 and the start of the track otherwise. -/
theorem getTDAnswersTheTrackStartOrDiscEnd : Obligations.GetTDAnswersTheTrackStartOrDiscEnd := by
  intro s p rest h hp
  have ha := (getTD_answers h hp).exec_command h
  by_cases hzero : bcdDec p = 0
  · rw [trackPosition, if_pos hzero] at ha
    rw [if_pos hzero]
    exact ha
  · rw [trackPosition, if_neg hzero] at ha
    rw [if_neg hzero]
    exact ha

/-- Settles O25: the head moves between the two envelopes. -/
theorem seekLMovesBetweenItsEnvelopes : Obligations.SeekLMovesBetweenItsEnvelopes := by
  rintro s d h rfl
  exact (seekL_answers h).exec_command h

/-- Settles O26: the identification sub-function, and every other. -/
theorem testAnswersByItsSubfunction : Obligations.TestAnswersByItsSubfunction := by
  intro s p rest h hp
  by_cases hid : p = 0x20#8
  · subst hid
    exact (test_answers_identification h hp).exec_command h
  · rw [if_neg hid, if_neg hid]
    exact (test_answers_error h hp hid).exec_command h

/-- Settles O27: the shell open, a disc, and no disc. -/
theorem getIDAnswersThreeWays : Obligations.GetIDAnswersThreeWays :=
  fun _ h =>
    ⟨fun hopen => (getID_answers_open h hopen).exec_command h,
      fun hshut hdisc => (getID_answers_disc h hshut hdisc).exec_command h,
      fun hshut hempty => (getID_answers_noDisc h hshut hempty).exec_command h⟩

/-- Settles O28: the diagnostic, then the error response. -/
theorem unknownOpcodeAnswersTheErrorResponse : Obligations.UnknownOpcodeAnswersTheErrorResponse :=
  fun op _ h => (unknown_answers h op).exec_eq h (.unknown op)

end Sys2Proof.Machine

/-! ### The response and interrupt queues

`push` cuts a queue by testing the room before each element; on a bounded queue that is appending everything and
keeping the first `fifoCap`. -/

namespace Sys2Proof.Machine

section
variable {s : State}

/-- Cutting before more is appended loses nothing that the cut afterwards would keep. -/
theorem take_append_of_take {α : Type} (n : Nat) (queue rest : List α) :
    (queue.take n ++ rest).take n = (queue ++ rest).take n := by
  rw [List.take_append, List.take_append, List.take_take, List.length_take, Nat.min_self]
  congr 2
  omega

theorem pushCode_cdc (code : IrqCode) (h : s.cdc.irqFifo.length ≤ fifoCap) :
    (pushCode code s).cdc = { s.cdc with irqFifo := (s.cdc.irqFifo ++ [code]).take fifoCap } := by
  rcases pushCode_cases code s with ⟨hroom, he⟩ | ⟨hfull, he⟩
  · rw [he, onCdc_cdc, List.take_of_length_le (by simpa using hroom)]
  · rw [he, note_cdc, List.take_left' (Nat.le_antisymm h hfull)]

theorem pushByte_cdc (b : Byte) (h : s.cdc.respFifo.length ≤ fifoCap) :
    (pushByte s b).cdc = { s.cdc with respFifo := (s.cdc.respFifo ++ [b]).take fifoCap } := by
  rcases pushByte_cases s b with ⟨hroom, he⟩ | ⟨hfull, he⟩
  · rw [he, onCdc_cdc, List.take_of_length_le (by simpa using hroom)]
  · rw [he, note_cdc, List.take_left' (Nat.le_antisymm h hfull)]

/-- R222: of the bytes of one push the first ones are kept. -/
theorem foldl_pushByte_cdc (bytes : List Byte) (h : s.cdc.respFifo.length ≤ fifoCap) :
    (bytes.foldl pushByte s).cdc = { s.cdc with respFifo := (s.cdc.respFifo ++ bytes).take fifoCap } := by
  induction bytes generalizing s with
  | nil => rw [List.foldl_nil, List.append_nil, List.take_of_length_le h]
  | cons b bs ih =>
    have hb := pushByte_cdc b h
    have hbounded : (pushByte s b).cdc.respFifo.length ≤ fifoCap := by
      rw [hb]
      exact List.length_take_le ..
    rw [List.foldl_cons, ih hbounded, hb, take_append_of_take, List.append_assoc, List.singleton_append]

end

/-- Settles O49: the code changes the interrupt queue only, so the bytes meet the response queue as it was. -/
theorem pushAppendsWithinTheCapacity : Obligations.PushAppendsWithinTheCapacity := by
  intro s code bytes hirq hresp
  have hc := pushCode_cdc code hirq
  have hbounded : (pushCode code s).cdc.respFifo.length ≤ fifoCap := by
    rw [hc]
    exact hresp
  rw [push, foldl_pushByte_cdc bytes hbounded, hc]
  rfl

end Sys2Proof.Machine

/-! ### The tick

A tick is the busy clear with the delivery, whose whole effect is `deliver_beginTick`, and then the sector pump, which
has a hand in its own fields, the two queues and the log, and in nothing else. -/

namespace Sys2Proof.Machine

section
variable {s : State}

/-! The drive states in which the pump counts, by the state bits. -/

theorem pumping_of_onlyState (hw : s.cfg.driveBits.wellFormed = true)
    (hd : onlyState s .reading ∨ onlyState s .playing) : pumping s.cfg.driveBits s.cdc = true := by
  rcases hd with hd | hd <;> simp [pumping, stateTag_of_onlyTag hw hd]

theorem not_pumping_of_clear {b : DriveBits} {c : Cdc} (hr : c.drive.getLsbD b.reading = false)
    (hp : c.drive.getLsbD b.playing = false) : pumping b c = false := by
  cases hs : c.drive.getLsbD b.seeking <;>
    simp [-BitVec.getLsbD_eq_getElem, pumping, stateTag, hr, hs, hp]

/-- Of the two states in which the pump counts, the bits tell Reading. -/
theorem stateTag_eq_reading_iff (hw : s.cfg.driveBits.wellFormed = true)
    (hd : onlyState s .reading ∨ onlyState s .playing) :
    stateTag s.cfg.driveBits s.cdc.drive = .reading ↔ onlyState s .reading := by
  refine ⟨fun ht => hd.resolve_right fun hp => ?_, stateTag_of_onlyTag hw⟩
  rw [stateTag_of_onlyTag hw hp] at ht
  cases ht

/-! What the pump leaves alone. -/

/-- The state without what the pump has a hand in. -/
def State.unpumped (s : State) : State :=
  { s with
    cdc := { s.cdc with countdown := 0, rawSector := none, readPos := 0, irqFifo := [], respFifo := [] }
    log := [] }

theorem push_unpumped (code : IrqCode) (bytes : List Byte) (s : State) :
    (push code bytes s).unpumped = s.unpumped :=
  push_keeps code bytes s State.unpumped
    (fun u c => by rcases pushCode_cases c u with ⟨-, he⟩ | ⟨-, he⟩ <;> rw [he] <;> rfl)
    (fun u b => by rcases pushByte_cases u b with ⟨-, he⟩ | ⟨-, he⟩ <;> rw [he] <;> rfl)

theorem fetchSector_unpumped (s : State) : (fetchSector s).unpumped = s.unpumped := by
  obtain ⟨t, ht, he⟩ := fetchSector_cases s
  have hu : t.unpumped = s.unpumped := by rcases ht with rfl | rfl <;> rfl
  rw [he]
  split
  · rw [push_unpumped, hu]
  · exact hu

/-- All the pump can do: nothing, count, or fetch. -/
theorem sectorPump_cases (s : State) :
    sectorPump s = s ∨ sectorPump s = s.onCdc (fun c => { c with countdown := c.countdown - 1 }) ∨
      sectorPump s = fetchSector (s.onCdc fun c => { c with countdown := s.cfg.sectorPeriod }) := by
  unfold sectorPump
  split_ifs
  · exact .inr (.inr rfl)
  · exact .inr (.inl rfl)
  · exact .inl rfl

theorem sectorPump_unpumped (s : State) : (sectorPump s).unpumped = s.unpumped := by
  rcases sectorPump_cases s with he | he | he
  · rw [he]
  · rw [he]
    rfl
  · rw [he, fetchSector_unpumped]
    rfl

/-! The pump takes no code from the interrupt queue. -/

theorem push_codes_prefix (code : IrqCode) (bytes : List Byte) (s : State) :
    s.cdc.irqFifo <+: (push code bytes s).cdc.irqFifo := by
  have hbytes : (push code bytes s).cdc.irqFifo = (pushCode code s).cdc.irqFifo :=
    foldl_pushByte_keeps (·.cdc.irqFifo)
      (fun u b => by rcases pushByte_cases u b with ⟨-, he⟩ | ⟨-, he⟩ <;> rw [he] <;> rfl) bytes _
  rw [hbytes]
  rcases pushCode_cases code s with ⟨-, he⟩ | ⟨-, he⟩ <;> rw [he]
  · exact List.prefix_append ..
  · exact List.prefix_rfl

theorem fetchSector_codes_prefix (s : State) : s.cdc.irqFifo <+: (fetchSector s).cdc.irqFifo := by
  obtain ⟨t, ht, he⟩ := fetchSector_cases s
  have hq : t.cdc.irqFifo = s.cdc.irqFifo := by rcases ht with rfl | rfl <;> rfl
  rw [he, ← hq]
  split
  · exact push_codes_prefix ..
  · exact List.prefix_rfl

theorem sectorPump_codes_prefix (s : State) : s.cdc.irqFifo <+: (sectorPump s).cdc.irqFifo := by
  rcases sectorPump_cases s with he | he | he
  · rw [he]
  · rw [he]
    exact List.prefix_rfl
  · rw [he]
    exact fetchSector_codes_prefix (s.onCdc fun c => { c with countdown := s.cfg.sectorPeriod })

/-- The front code stays in front when codes are appended. -/
theorem frontEnabled_of_prefix {c c' : Cdc} (hq : c.irqFifo <+: c'.irqFifo) (he : c'.irqEnable = c.irqEnable)
    (hf : frontEnabled c = true) : frontEnabled c' = true := by
  obtain ⟨more, hq⟩ := hq
  cases hc : c.irqFifo with
  | nil => simp [frontEnabled, hc] at hf
  | cons code rest => simpa [frontEnabled, hc, ← hq, he] using hf

/-! The whole tick. -/

/-- The update of a tick. -/
def ticked (s : State) : State := sectorPump (deliverInterrupt (beginTick s))

theorem exec_tick (h : s.cdc.fatal = none) : exec .tick s = .next (ticked s) := exec_of_clear h .tick

theorem step_ticked {rest : List Transaction} (h : s.cdc.fatal = none) (hi : s.inbox = .event 0#2 :: rest) :
    step s = .next (ticked { s with inbox := rest }) :=
  (step_tick hi).trans (exec_tick (s := { s with inbox := rest }) h)

section
variable (s)

/-- Beside the pump a tick clears `busy`, counts itself and raises the line. -/
theorem ticked_unpumped : (ticked s).unpumped = State.unpumped { s with
    cdc := { s.cdc with busy := false }, ticks := s.ticks + 1,
    irqHistory := if frontEnabled s.cdc then s.irqHistory ++ [{ line := s.cfg.irqLineId, tick := s.ticks + 1 }]
      else s.irqHistory } := by
  rw [ticked, sectorPump_unpumped, deliver_beginTick]

@[simp] theorem ticked_cfg : (ticked s).cfg = s.cfg := congrArg (·.cfg) (ticked_unpumped s)
@[simp] theorem ticked_disc : (ticked s).disc = s.disc := congrArg (·.disc) (ticked_unpumped s)
@[simp] theorem ticked_inbox : (ticked s).inbox = s.inbox := congrArg (·.inbox) (ticked_unpumped s)
@[simp] theorem ticked_readValue : (ticked s).readValue = s.readValue :=
  congrArg (·.readValue) (ticked_unpumped s)
@[simp] theorem ticked_ticks : (ticked s).ticks = s.ticks + 1 := congrArg State.ticks (ticked_unpumped s)
@[simp] theorem ticked_busy : (ticked s).cdc.busy = false := congrArg (·.cdc.busy) (ticked_unpumped s)
@[simp] theorem ticked_irqEnable : (ticked s).cdc.irqEnable = s.cdc.irqEnable :=
  congrArg (·.cdc.irqEnable) (ticked_unpumped s)
@[simp] theorem ticked_drive : (ticked s).cdc.drive = s.cdc.drive := congrArg (·.cdc.drive) (ticked_unpumped s)
@[simp] theorem ticked_fatal : (ticked s).cdc.fatal = s.cdc.fatal := congrArg (·.cdc.fatal) (ticked_unpumped s)

/-- R242: the raise is decided by the front code the tick finds. -/
theorem ticked_irqHistory : (ticked s).irqHistory =
    if frontEnabled s.cdc then s.irqHistory ++ [{ line := s.cfg.irqLineId, tick := s.ticks + 1 }]
    else s.irqHistory := congrArg State.irqHistory (ticked_unpumped s)

end

/-- R243: a tick acknowledges nothing, so an enabled front code is still in front after it. -/
theorem frontEnabled_ticked (hf : frontEnabled s.cdc = true) : frontEnabled (ticked s).cdc = true := by
  have hq := sectorPump_codes_prefix (deliverInterrupt (beginTick s))
  have hkept : (deliverInterrupt (beginTick s)).cdc.irqFifo = s.cdc.irqFifo := by rw [deliver_beginTick]
  rw [hkept] at hq
  exact frontEnabled_of_prefix hq (ticked_irqEnable s) hf

/-! The tick by what its pump does. -/

theorem ticked_idle (hp : pumping s.cfg.driveBits s.cdc = false) :
    ticked s = deliverInterrupt (beginTick s) :=
  sectorPump_idle (by rwa [deliver_beginTick])

theorem ticked_counts (hp : pumping s.cfg.driveBits s.cdc = true) (hc : 2 ≤ s.cdc.countdown) :
    ticked s = (deliverInterrupt (beginTick s)).onCdc fun c => { c with countdown := c.countdown - 1 } :=
  sectorPump_counts (by rwa [deliver_beginTick]) (by rwa [deliver_beginTick])

theorem ticked_fetches (hp : pumping s.cfg.driveBits s.cdc = true) (hc : s.cdc.countdown = 1) :
    ticked s = fetchSector ((deliverInterrupt (beginTick s)).onCdc fun c =>
      { c with countdown := s.cfg.sectorPeriod }) := by
  have hf := sectorPump_fetches (s := deliverInterrupt (beginTick s))
    (by rwa [deliver_beginTick]) (by rw [deliver_beginTick]; exact hc.le)
  rw [ticked, hf, deliver_beginTick]

/-- The record after a fetch that meets bounded queues. -/
theorem fetchSector_cdc (hirq : s.cdc.irqFifo.length ≤ 16) (hresp : s.cdc.respFifo.length ≤ 16) :
    (fetchSector s).cdc = { (fetched s).cdc with
      irqFifo :=
        if stateTag s.cfg.driveBits s.cdc.drive = .reading ∧ (readSectorAt s.disc s.cdc.readPos).type = .data then
          (s.cdc.irqFifo ++ [s.cfg.intDataReady]).take 16 else s.cdc.irqFifo
      respFifo :=
        if stateTag s.cfg.driveBits s.cdc.drive = .reading ∧ (readSectorAt s.disc s.cdc.readPos).type = .data then
          (s.cdc.respFifo ++ [s.cdc.drive]).take 16 else s.cdc.respFifo } := by
  obtain ⟨t, ht, he⟩ := fetchSector_cases s
  have htc : t.cdc = (fetched s).cdc := by rcases ht with rfl | rfl <;> rfl
  rw [he]
  split
  · rw [pushAppendsWithinTheCapacity t _ _ (by rw [htc]; exact hirq) (by rw [htc]; exact hresp), htc]
    rfl
  · exact htc

end

/-! A run of ticks. -/

/-- How many of `n` ticks fetch a sector, with `countdown` ticks left to the first fetch and `period` from each to the
next. -/
def fetches (period countdown n : Nat) : Nat :=
  if n < countdown then 0 else (n - countdown) / period + 1

section
variable {period countdown : Nat}

theorem fetches_none {n : Nat} (h : n < countdown) : fetches period countdown n = 0 := if_pos h

theorem fetches_counting (n : Nat) (h : 2 ≤ countdown) :
    fetches period countdown (n + 1) = fetches period (countdown - 1) n := by
  have hlt : n + 1 < countdown ↔ n < countdown - 1 := by omega
  have hsub : n + 1 - countdown = n - (countdown - 1) := by omega
  simp only [fetches, hlt, hsub]

theorem fetches_due (n : Nat) (h : 1 ≤ period) : fetches period 1 (n + 1) = fetches period period n + 1 := by
  have hdiv : n / period = fetches period period n := by
    rw [Nat.div_eq, fetches]
    split <;> split <;> omega
  rw [← hdiv]
  simp [fetches]

end

section
variable {s : State}

/-- A tick keeps the countdown in its range, and the position with the fetches to come is what it was with this tick
still among them. -/
theorem ticked_fetches_balance (hp : pumping s.cfg.driveBits s.cdc = true) (hpos : 1 ≤ s.cdc.countdown)
    (hle : s.cdc.countdown ≤ s.cfg.sectorPeriod) :
    1 ≤ (ticked s).cdc.countdown ∧ (ticked s).cdc.countdown ≤ s.cfg.sectorPeriod ∧
      ∀ n, (ticked s).cdc.readPos + fetches s.cfg.sectorPeriod (ticked s).cdc.countdown n =
        s.cdc.readPos + fetches s.cfg.sectorPeriod s.cdc.countdown (n + 1) := by
  by_cases hc : 2 ≤ s.cdc.countdown
  · rw [ticked_counts hp hc, deliver_beginTick]
    exact ⟨Nat.le_pred_of_lt hc, (Nat.pred_le _).trans hle, fun n => by rw [fetches_counting n hc]; rfl⟩
  · have hone : s.cdc.countdown = 1 := by omega
    have hperiod : 1 ≤ s.cfg.sectorPeriod := hpos.trans hle
    have hcount : (ticked s).cdc.countdown = s.cfg.sectorPeriod := by
      rw [ticked_fetches hp hone]
      exact congrArg Cdc.countdown (fetchSector_latches _)
    have hread : (ticked s).cdc.readPos = s.cdc.readPos + 1 := by
      rw [ticked_fetches hp hone, deliver_beginTick]
      exact congrArg Cdc.readPos (fetchSector_latches _)
    rw [hcount, hread]
    exact ⟨hperiod, le_rfl, fun n => by rw [hone, fetches_due n hperiod]; push_cast; ring⟩

theorem pumping_ticked (s : State) :
    pumping (ticked s).cfg.driveBits (ticked s).cdc = pumping s.cfg.driveBits s.cdc := by
  simp [pumping]

end

/-- An enabled front code makes one raise in each tick of the run. -/
theorem run_ticks_irqHistory (n : Nat) {s : State} (h : s.cdc.fatal = none)
    (hi : s.inbox = List.replicate n (.event 0#2)) (hf : frontEnabled s.cdc = true) :
    ∃ t : State, Host.Core.run Sys2Proof.core n s = .next t ∧
      t.irqHistory = s.irqHistory ++
        (List.range n).map (fun k => { line := s.cfg.irqLineId, tick := s.ticks + 1 + k }) := by
  induction n generalizing s with
  | zero => exact ⟨s, rfl, by simp⟩
  | succ n ih =>
    have hraise := ticked_irqHistory { s with inbox := List.replicate n (.event 0#2) }
    rw [if_pos hf] at hraise
    obtain ⟨t, hrun, hhistory⟩ := ih (s := ticked { s with inbox := List.replicate n (.event 0#2) })
      (by simpa using h) (by simp) (frontEnabled_ticked hf)
    refine ⟨t, run_succ (step_ticked h hi) hrun, ?_⟩
    rw [hhistory, hraise, List.range_succ_eq_map]
    simp [Function.comp_def, Nat.add_comm, Nat.add_left_comm]

/-- In a drive state in which the pump counts, the run keeps the drive status and advances the position once for each
fetch. -/
theorem run_ticks_readPos (n : Nat) {s : State} (h : s.cdc.fatal = none)
    (hi : s.inbox = List.replicate n (.event 0#2)) (hp : pumping s.cfg.driveBits s.cdc = true)
    (hpos : 1 ≤ s.cdc.countdown) (hle : s.cdc.countdown ≤ s.cfg.sectorPeriod) :
    ∃ t : State, Host.Core.run Sys2Proof.core n s = .next t ∧ t.cdc.drive = s.cdc.drive ∧
      t.cdc.readPos = s.cdc.readPos + fetches s.cfg.sectorPeriod s.cdc.countdown n := by
  induction n generalizing s with
  | zero => exact ⟨s, rfl, rfl, by simp [fetches_none (show 0 < s.cdc.countdown from hpos)]⟩
  | succ n ih =>
    obtain ⟨hpos', hle', hbalance⟩ :=
      ticked_fetches_balance (s := { s with inbox := List.replicate n (.event 0#2) }) hp hpos hle
    obtain ⟨t, hrun, hdrive, hread⟩ := ih (s := ticked { s with inbox := List.replicate n (.event 0#2) })
      (by simpa using h) (by simp) (by rwa [pumping_ticked]) hpos' (by rwa [ticked_cfg])
    refine ⟨t, run_succ (step_ticked h hi) hrun, hdrive.trans (ticked_drive _), ?_⟩
    rw [hread, ticked_cfg, hbalance]

/-- Settles O44: the pump adds no raise, so the history is the delivery's. -/
theorem tickRaisesTheLineForAnEnabledFrontCode : Obligations.TickRaisesTheLineForAnEnabledFrontCode := by
  intro s h
  refine ⟨ticked s, exec_tick h, ticked_ticks s, ticked_busy s, ?_⟩
  rw [ticked_irqHistory]
  cases hq : s.cdc.irqFifo with
  | nil => simp [frontEnabled, hq]
  | cons code rest =>
    simp only [frontEnabled, hq, bne_iff_ne]
    split <;> simp

/-- Settles O45: the pump is idle in Stopped and Seeking and counts in Reading and Playing. -/
theorem tickWithNoSectorDue : Obligations.TickWithNoSectorDue := by
  intro s h hw
  refine ⟨fun hr hp => ?idle, fun hd hc => ?counts⟩
  case idle => rw [exec_tick h, ticked_idle (not_pumping_of_clear hr hp), deliver_beginTick]
  case counts =>
    rw [exec_tick h, ticked_counts (pumping_of_onlyState hw hd) hc, deliver_beginTick]
    rfl

/-- Settles O46: the pump fetches, and of the two states only Reading announces. -/
theorem tickFetchesTheSectorThatIsDue : Obligations.TickFetchesTheSectorThatIsDue := by
  intro s h hw hd hc hirq hresp
  refine ⟨ticked s, exec_tick h, ticked_cfg s, ticked_disc s, ticked_inbox s, ticked_readValue s, ?_⟩
  rw [ticked_fetches (pumping_of_onlyState hw hd) hc, deliver_beginTick,
    fetchSector_cdc (by exact hirq) (by exact hresp)]
  simp only [onCdc_cdc, onCdc_cfg, onCdc_disc, fetched, stateTag_eq_reading_iff hw hd]

/-- Settles O47: by induction on the run, the front code being enabled after every tick. -/
theorem enabledFrontCodeRefiresEveryTick : Obligations.EnabledFrontCodeRefiresEveryTick :=
  fun n _ h hi hf => run_ticks_irqHistory n h hi hf

/-- Settles O48: by induction on the run, the countdown staying in its range. -/
theorem sectorIsFetchedEveryPeriod : Obligations.SectorIsFetchedEveryPeriod := by
  intro n s h hi hw hd hpos hle
  obtain ⟨t, hrun, hdrive, hread⟩ := run_ticks_readPos n h hi (pumping_of_onlyState hw hd) hpos hle
  refine ⟨t, hrun, hdrive, ?_⟩
  rw [hread, fetches, Nat.cast_ite, Nat.cast_zero]

end Sys2Proof.Machine

/-! ### The data path

A data read is one byte at the cursor while data is available, and the word read is four of them. Of all operations
only these, the request register and reset write the active buffer or its cursor. -/

namespace Sys2Proof.Machine

/-! One byte of the payload. -/

section
variable {cfg : Config} {c : Cdc}

/-- No data is available without a buffer or with the cursor at its end (R263). -/
theorem dataAvailable_eq_false_iff :
    dataAvailable cfg c = false ↔ c.active = none ∨ payloadLen cfg c ≤ c.cursor := by
  rw [← Bool.not_eq_true, dataAvailable_iff, not_and_or, not_not, Nat.not_lt]

/-- R34, with the test of the mode written as a proposition. -/
theorem skip_eq (cfg : Config) (c : Cdc) :
    skip cfg c = if c.mode &&& cfg.modeWholeSector ≠ 0#8 then skipWhole else skipDataOnly := by
  simp [skip, wholeSector]

/-- The payload ends within the sector, in either mode (R264: "always in range"). -/
theorem skip_add_payloadLen_le (cfg : Config) (c : Cdc) : skip cfg c + payloadLen cfg c ≤ sectorBytes := by
  have hwhole := cfg.payloadWhole.isLt
  unfold skip payloadLen
  split
  · simp only [sectorBytes, skipWhole] at hwhole ⊢
    omega
  · decide

theorem getElem?_eq_sectorByte (d : SectorData) {i : Nat} (h : i < sectorBytes) : d[i]? = some (sectorByte d i) := by
  have hd : i < 2352 := h
  simp [sectorByte, hd]

theorem dataByte_of_available {d : SectorData} (hd : c.active = some d) (ha : dataAvailable cfg c = true) :
    dataByte cfg c = sectorByte d (skip cfg c + c.cursor) := by
  simp [dataByte, hd, ha]

theorem dataByte_of_not_available (ha : dataAvailable cfg c = false) : dataByte cfg c = cfg.emptyReadValue := by
  unfold dataByte
  split
  · rw [ha]
    rfl
  · rfl

theorem dataAdvance_of_available (ha : dataAvailable cfg c = true) :
    dataAdvance cfg c = { c with cursor := c.cursor + 1 } := if_pos ha

theorem dataAdvance_of_not_available (ha : dataAvailable cfg c = false) : dataAdvance cfg c = c := by
  simp [dataAdvance, ha]

/-- A data read writes the cursor and nothing else of the record. -/
theorem dataAdvance_frame (cfg : Config) (c : Cdc) :
    dataAdvance cfg c = { c with cursor := (dataAdvance cfg c).cursor } := by
  rcases dataAdvance_cases cfg c with ⟨-, he⟩ | ⟨-, he⟩ <;> rw [he]

@[simp] theorem dataAdvance_active (cfg : Config) (c : Cdc) : (dataAdvance cfg c).active = c.active := by
  rw [dataAdvance_frame]

@[simp] theorem dataAdvance_fatal (cfg : Config) (c : Cdc) : (dataAdvance cfg c).fatal = c.fatal := by
  rw [dataAdvance_frame]

@[simp] theorem dataWord_active (cfg : Config) (c : Cdc) : (dataWord cfg c).2.active = c.active := by
  simp only [dataWord, dataAdvance_active]

end

/-! The data read by byte and by word. -/

/-- The update of a data read. -/
def dataRead (s : State) : State := (s.onCdc (dataAdvance s.cfg)).answer (.byte (dataByte s.cfg s.cdc))

section
variable {s : State} (ii : Index) (h : s.cdc.fatal = none)

theorem dataRead_fatal (s : State) : (dataRead s).cdc.fatal = s.cdc.fatal := dataAdvance_fatal ..

include h

theorem exec_rdData : exec (.rdData ii) s = .next (dataRead s) := exec_of_clear h (.rdData ii)

/-- With the cursor in the payload the byte at the mode's offset and the cursor is a byte of the sector (R264). -/
theorem exec_rdData_of_lt {d : SectorData} (hd : s.cdc.active = some d)
    (hlt : s.cdc.cursor < payloadLen s.cfg s.cdc) :
    ∃ b : Byte, d[skip s.cfg s.cdc + s.cdc.cursor]? = some b ∧
      exec (.rdData ii) s = .next { s with
        cdc := { s.cdc with cursor := s.cdc.cursor + 1 }, readValue := some (.byte b) } := by
  have ha : dataAvailable s.cfg s.cdc = true := (dataAvailable_of_some s.cdc hd).trans (decide_eq_true hlt)
  have hin : skip s.cfg s.cdc + s.cdc.cursor < sectorBytes :=
    (Nat.add_lt_add_left hlt _).trans_le (skip_add_payloadLen_le s.cfg s.cdc)
  refine ⟨_, getElem?_eq_sectorByte d hin, ?_⟩
  rw [exec_rdData ii h, dataRead, State.onCdc, dataAdvance_of_available ha, dataByte_of_available hd ha]
  rfl

/-- With nothing available the read answers the configured value and leaves the rest (R265). -/
theorem exec_rdData_of_not_available (ha : dataAvailable s.cfg s.cdc = false) :
    exec (.rdData ii) s = .next { s with readValue := some (.byte s.cfg.emptyReadValue) } := by
  rw [exec_rdData ii h, dataRead, State.onCdc, dataAdvance_of_not_available ha, dataByte_of_not_available ha]
  rfl

end

/-- Settles O38: the two modes are the two values of `skip` and `payloadLen`. -/
theorem dataReadAdvancesTheCursor : Obligations.DataReadAdvancesTheCursor := by
  refine fun s ii h => ⟨fun d hd hm hlt => ?dataOnly, fun d hd hm hlt => ?whole, fun hnone => ?exhausted⟩
  case dataOnly =>
    have hread := exec_rdData_of_lt ii h hd
    rw [payloadLen_eq, skip_eq, if_neg (not_not.mpr hm), if_neg (not_not.mpr hm)] at hread
    exact hread hlt
  case whole =>
    have hread := exec_rdData_of_lt ii h hd
    rw [payloadLen_eq, skip_eq, if_pos hm, if_pos hm] at hread
    exact hread hlt
  case exhausted =>
    refine exec_rdData_of_not_available ii h (dataAvailable_eq_false_iff.mpr ?_)
    rw [payloadLen_eq]
    rcases hnone with hactive | ⟨hm, hle⟩ | ⟨hm, hle⟩
    · exact .inl hactive
    · exact .inr (by rwa [if_neg (not_not.mpr hm)])
    · exact .inr (by rwa [if_pos hm])

/-- Four data reads leave the record as the word read does, and their bytes are its value (R267). -/
theorem dataWord_eq_dataReads (s : State) :
    (s.onCdc fun c => (dataWord s.cfg c).2).answer (.word (dataWord s.cfg s.cdc).1) =
      (dataRead (dataRead (dataRead (dataRead s)))).answer (.word
        (dataByte s.cfg (dataRead (dataRead (dataRead s))).cdc ++ dataByte s.cfg (dataRead (dataRead s)).cdc ++
          dataByte s.cfg (dataRead s).cdc ++ dataByte s.cfg s.cdc)) := rfl

/-- Settles O51: the latch stays clear from read to read. -/
theorem wordReadIsFourByteReads : Obligations.WordReadIsFourByteReads := by
  intro s ii h
  have h1 : (dataRead s).cdc.fatal = none := (dataRead_fatal s).trans h
  have h2 : (dataRead (dataRead s)).cdc.fatal = none := (dataRead_fatal _).trans h1
  have h3 : (dataRead (dataRead (dataRead s))).cdc.fatal = none := (dataRead_fatal _).trans h2
  refine ⟨_, _, _, _, _, _, _, _, exec_rdData ii h, rfl, exec_rdData ii h1, rfl, exec_rdData ii h2, rfl,
    exec_rdData ii h3, rfl, ?_⟩
  rw [exec_of_clear h .rdDataWord, dataWord_eq_dataReads]
  rfl

/-! What the host is reading. -/

/-- The active buffer with its cursor. -/
def Cdc.hostBuffer (c : Cdc) : Option SectorData × Nat := (c.active, c.cursor)

section
variable (s : State)

theorem push_hostBuffer (code : IrqCode) (bytes : List Byte) :
    (push code bytes s).cdc.hostBuffer = s.cdc.hostBuffer := by
  rw [push_cdc_frame]
  rfl

theorem pushAck_hostBuffer : (pushAck s).cdc.hostBuffer = s.cdc.hostBuffer := push_hostBuffer ..

theorem pushDone_hostBuffer : (pushDone s).cdc.hostBuffer = s.cdc.hostBuffer := push_hostBuffer ..

theorem errorResponse_hostBuffer : (errorResponse s).cdc.hostBuffer = s.cdc.hostBuffer := push_hostBuffer ..

theorem pushParam_hostBuffer (b : Byte) : (pushParam b s).cdc.hostBuffer = s.cdc.hostBuffer := by
  rcases pushParam_cases s b with ⟨-, he⟩ | ⟨-, he⟩ <;> rw [he] <;> rfl

theorem readResponse_hostBuffer : (readResponse s).cdc.hostBuffer = s.cdc.hostBuffer := by
  cases hq : s.cdc.respFifo with
  | nil => rw [readResponse_nil hq]; rfl
  | cons b rest => rw [readResponse_cons hq]; rfl

theorem popParam_hostBuffer {k : Byte → State → State}
    (hk : ∀ b t, (k b t).cdc.hostBuffer = t.cdc.hostBuffer) :
    (popParam k s).cdc.hostBuffer = s.cdc.hostBuffer := by
  cases hq : s.cdc.paramFifo with
  | nil => rw [popParam_nil hq]; rfl
  | cons b rest => rw [popParam_cons hq, hk]; rfl

theorem dispatch_hostBuffer {body : State → State} (hb : ∀ t, (body t).cdc.hostBuffer = t.cdc.hostBuffer) :
    (dispatch body s).cdc.hostBuffer = s.cdc.hostBuffer := by
  have hbody : (body (clearResponses s)).cdc.hostBuffer = s.cdc.hostBuffer := hb _
  cases hf : (body (clearResponses s)).cdc.fatal with
  | some k => rw [dispatch_of_fatal hf, hbody]
  | none => rw [dispatch_of_clear hf]; exact hbody

theorem bodySetmode_hostBuffer : (bodySetmode s).cdc.hostBuffer = s.cdc.hostBuffer :=
  popParam_hostBuffer s fun p t => by
    split
    · rfl
    · exact pushAck_hostBuffer _

theorem bodyTest_hostBuffer : (bodyTest s).cdc.hostBuffer = s.cdc.hostBuffer :=
  popParam_hostBuffer s fun sub t => by
    split
    · exact push_hostBuffer ..
    · exact errorResponse_hostBuffer t

theorem bodyGetID_hostBuffer : (bodyGetID s).cdc.hostBuffer = s.cdc.hostBuffer := by
  unfold bodyGetID
  split
  · exact errorResponse_hostBuffer s
  · split <;> rw [push_hostBuffer, pushAck_hostBuffer]

/-- No command changes what the host is reading (R268). -/
theorem commandBody_hostBuffer (n : CommandName) : (commandBody n s).cdc.hostBuffer = s.cdc.hostBuffer := by
  cases n with
  | getstat => exact pushAck_hostBuffer s
  | setloc =>
    exact popParam_hostBuffer s fun mm t => popParam_hostBuffer t fun ss t => popParam_hostBuffer t fun ff t =>
      pushAck_hostBuffer _
  | play | readN | readS => exact pushAck_hostBuffer (startAt _ s)
  | motorOn | stop => exact (pushDone_hostBuffer _).trans (pushAck_hostBuffer _)
  | pause | init | seekL => exact (pushDone_hostBuffer _).trans (pushAck_hostBuffer s)
  | mute | demute => exact pushAck_hostBuffer _
  | setmode => exact bodySetmode_hostBuffer s
  | getparam | getTN => exact push_hostBuffer ..
  | getTD => exact popParam_hostBuffer s fun p t => push_hostBuffer ..
  | test => exact bodyTest_hostBuffer s
  | getID => exact bodyGetID_hostBuffer s

theorem bodyUnknown_hostBuffer (op : Byte) : (bodyUnknown op s).cdc.hostBuffer = s.cdc.hostBuffer :=
  errorResponse_hostBuffer _

/-- Nor does a tick, its pump included (R268). -/
theorem ticked_hostBuffer : (ticked s).cdc.hostBuffer = s.cdc.hostBuffer :=
  congrArg (·.cdc.hostBuffer) (ticked_unpumped s)

end

/-- All an operation but `RESET` can do to what the host is reading: nothing, a request, or a move of the cursor by a
data read. -/
theorem Meaning.hostBuffer_cases {o : Opcodes} {i : Instr} {f : State → State} (h : Meaning o i f) (s : State) :
    (f s).cdc.hostBuffer = s.cdc.hostBuffer ∨ (∃ v, i = .wrReq v ∧ f = request (v.getLsbD 7)) ∨
      ((i = .rdDataWord ∨ ∃ ii, i = .rdData ii) ∧ (f s).cdc.active = s.cdc.active) := by
  cases h with
  | command n => exact .inl (dispatch_hostBuffer s fun t => commandBody_hostBuffer t n)
  | unknown op | unknownByte => exact .inl (dispatch_hostBuffer s fun t => bodyUnknown_hostBuffer t _)
  | rdStat | wrIndex | wrIrqen | rdIrqen | wrIrqack | rdIrqflag | ignoredWrite => exact .inl rfl
  | rdResp => exact .inl (readResponse_hostBuffer s)
  | wrParam v => exact .inl (pushParam_hostBuffer s v)
  | wrReq v => exact .inr (.inl ⟨v, rfl, rfl⟩)
  | rdData ii => exact .inr (.inr ⟨.inr ⟨ii, rfl⟩, dataAdvance_active ..⟩)
  | rdDataWord => exact .inr (.inr ⟨.inl rfl, dataWord_active ..⟩)
  | tick => exact .inl (ticked_hostBuffer s)

/-- A request that changes the active buffer discards it, or adopts the raw sector where no data was available. -/
theorem request_active_writer {b : Bool} {s : State} (hne : (request b s).cdc.active ≠ s.cdc.active) :
    (b = false ∧ (request b s).cdc.active = none) ∨
      (b = true ∧ (request b s).cdc.active = s.cdc.rawSector ∧
        (s.cdc.active = none ∨ payloadLen s.cfg s.cdc ≤ s.cdc.cursor)) := by
  rcases request_cases s b with ⟨-, -, he⟩ | ⟨hb, ha, he⟩ | ⟨hb, he⟩ <;> rw [he] at hne ⊢
  · exact absurd rfl hne
  · exact .inr ⟨hb, rfl, dataAvailable_eq_false_iff.mp ha⟩
  · exact .inl ⟨hb, rfl⟩

/-- Settles O52: what an operation's update can do to the buffer, and what a request can do. -/
theorem activeBufferHasOnlyItsWriters : Obligations.ActiveBufferHasOnlyItsWriters := by
  intro i s t ht
  rcases exec_cases ht with ⟨hreset, -⟩ | ⟨f, hf, -, rfl⟩
  · exact ⟨fun _ => .inl hreset, fun _ => .inl hreset⟩
  rcases hf.hostBuffer_cases s with hkept | ⟨v, hi, rfl⟩ | ⟨hi, hactive⟩
  · obtain ⟨hactive, hcursor⟩ := Prod.mk.inj hkept
    exact ⟨fun hne => absurd hactive hne, fun hne => absurd hcursor hne⟩
  · exact ⟨fun hne => .inr ⟨v, hi, request_active_writer hne⟩, fun _ => .inr (.inr (.inl ⟨v, hi⟩))⟩
  · exact ⟨fun hne => absurd hactive hne, fun _ => .inr (hi.imp_right .inr)⟩

end Sys2Proof.Machine

/-! ### Positions and BCD

The pure conversions of 45_position_bcd.md: the two nibbles of a BCD byte, and positions as counts of frames from the
start of the lead-in. -/

namespace Sys2Proof.Machine

/-! Linear positions. -/

/-- The conversion with the model's constants at their values (R282). -/
theorem toLba_eq (p : Msf) : toLba p = ((p.m * 60 + p.s) * 75 + p.f : Nat) - (150 : Int) := rfl

theorem fromLba_eq_none_iff {l : Int} : fromLba l = none ↔ l < -150 := by
  simp only [fromLba, ite_eq_left_iff, reduceCtorEq, imp_false, not_not]
  rfl

/-- The position of the `n`th frame, counted from the start of the lead-in (R284). -/
theorem fromLba_frame (n : Nat) :
    fromLba (n - 150) = some { m := n / 4500, s := n / 75 % 60, f := n % 75 } := by
  have hdefined : ¬ (n - 150 : Int) < -150 := by omega
  simp [fromLba, leadIn, secondsPerMinute, framesPerSecond, hdefined]

/-- `from_lba` answers the one triple in range that `to_lba` takes back to the position (R285, C9). -/
theorem fromLba_eq_some_iff {l : Int} {p : Msf} :
    fromLba l = some p ↔ toLba p = l ∧ p.s < 60 ∧ p.f < 75 := by
  obtain ⟨m, s, f⟩ := p
  rw [toLba_eq]
  constructor
  · intro h
    have hdefined : ¬ l < -150 := fun hl => by simp [fromLba_eq_none_iff.mpr hl] at h
    obtain ⟨n, rfl⟩ : ∃ n : Nat, l = n - 150 := ⟨(l + 150).toNat, by omega⟩
    rw [fromLba_frame] at h
    cases h
    dsimp only
    omega
  · rintro ⟨rfl, hs, hf⟩
    rw [fromLba_frame, Option.some_inj, Msf.mk.injEq]
    dsimp only at hs hf ⊢
    omega

/-- Settles O55: `from_lba` is defined from -150 on, and a triple in range is its answer exactly where `to_lba` gives
the position back. -/
theorem positionsRoundTrip : Obligations.PositionsRoundTrip := by
  refine ⟨fun l hl => ?_, fun p hs hf => fromLba_eq_some_iff.mpr ⟨rfl, hs, hf⟩, fun l => fromLba_eq_none_iff.mpr⟩
  obtain ⟨p, hp⟩ := Option.ne_none_iff_exists'.mp (mt fromLba_eq_none_iff.mp (Int.not_lt.mpr hl))
  obtain ⟨hlba, hs, hf⟩ := fromLba_eq_some_iff.mp hp
  exact ⟨p, hp, hs, hf, hlba⟩

/-! BCD. -/

/-- The tens count modulo 16 and the units fill the byte without a carry between the nibbles (R281). -/
theorem toNat_bcdEnc (n : Nat) : (bcdEnc n).toNat = n / 10 % 16 * 16 + n % 10 := by
  rw [bcdEnc, BitVec.toNat_ofNat]
  omega

theorem toNat_highNibble (b : Byte) : (b.extractLsb' 4 4).toNat = b.toNat / 16 := by
  rw [BitVec.extractLsb'_toNat, Nat.shiftRight_eq_div_pow]
  omega

theorem toNat_lowNibble (b : Byte) : (b.extractLsb' 0 4).toNat = b.toNat % 16 := by
  rw [BitVec.extractLsb'_toNat, Nat.shiftRight_zero]

/-- R280. -/
theorem bcdDec_eq_nibbles (b : Byte) :
    bcdDec b = (b.extractLsb' 4 4).toNat * 10 + (b.extractLsb' 0 4).toNat := by
  rw [toNat_highNibble, toNat_lowNibble, bcdDec]

theorem highNibble_bcdEnc (n : Nat) : (bcdEnc n).extractLsb' 4 4 = BitVec.ofNat 4 (n / 10) := by
  apply BitVec.eq_of_toNat_eq
  rw [toNat_highNibble, toNat_bcdEnc, BitVec.toNat_ofNat]
  omega

theorem toNat_lowNibble_bcdEnc (n : Nat) : ((bcdEnc n).extractLsb' 0 4).toNat = n % 10 := by
  rw [toNat_lowNibble, toNat_bcdEnc]
  omega

/-- Up to 99 the tens count fits its nibble. -/
theorem bcdDec_bcdEnc {n : Nat} (h : n ≤ 99) : bcdDec (bcdEnc n) = n := by
  rw [bcdDec, toNat_bcdEnc]
  omega

/-- A units digit up to 9 is not carried into the tens; the tens nibble is kept whatever it holds. -/
theorem bcdEnc_bcdDec {b : Byte} (hunits : b.toNat % 16 ≤ 9) : bcdEnc (bcdDec b) = b := by
  apply BitVec.eq_of_toNat_eq
  rw [toNat_bcdEnc, bcdDec]
  omega

/-- Settles O54: the formulas by their nibbles, and the two round trips. -/
theorem conversionsFollowTheirFormulas : Obligations.ConversionsFollowTheirFormulas :=
  ⟨bcdDec_eq_nibbles, fun n => ⟨highNibble_bcdEnc n, toNat_lowNibble_bcdEnc n⟩,
    fun m s f => by rw [toLba_eq]; push_cast; rfl,
    fun _ => bcdDec_bcdEnc, fun _ _ => bcdEnc_bcdDec⟩

end Sys2Proof.Machine

/-! ### The fatal condition

A fatal is latched only by a command that lacks what it needs, after step (1) and before step (6) (R300, R301); from
then on the latch test stops every operation but `RESET` (R302). -/

namespace Sys2Proof.Machine

/-! The latch test. -/

/-- Settles O31: every operation but `RESET` is its update behind the latch test. -/
theorem latchedFatalStopsEveryOperation : Obligations.LatchedFatalStopsEveryOperation := by
  intro i s k h hi
  obtain ⟨f, hf⟩ := exists_meaning s.cfg.encodings.opcodes hi
  rw [exec_of_meaning hf, operate_of_latched h]

/-- Settles O32: `RESET` tests no latch, and every other operation goes on to the state its update gives. -/
theorem everyOperationHasAStepUnlessLatched : Obligations.EveryOperationHasAStepUnlessLatched := by
  intro i s h
  by_cases hi : i = .reset
  · exact ⟨s.resetCdc, hi ▸ exec_reset s⟩
  · obtain ⟨f, hf⟩ := exists_meaning s.cfg.encodings.opcodes hi
    exact ⟨f s, exec_of_clear h hf⟩

/-! The commands that raise a fatal. -/

/-- What a command leaves that raises `k` with `params` still queued: step (1) has run and step (6) has not. -/
def State.latched (s : State) (params : List Byte) (k : FatalKind) : State :=
  (clearResponses (s.withParams params)).raiseFatal k

section
variable {s : State}

theorem withParams_self {params : List Byte} (h : s.cdc.paramFifo = params) : s.withParams params = s := by
  subst h
  rfl

theorem popParam_starved (h : s.cdc.paramFifo = []) (k : Byte → State → State) :
    popParam k (clearResponses s) = s.latched [] .paramStarvation := by
  rw [State.latched, withParams_self h]
  exact popParam_nil (s := clearResponses s) h k

/-- Setloc pops what is queued before it finds a parameter missing. -/
theorem setloc_starved (h : s.cdc.paramFifo.length < 3) :
    commandBody .setloc (clearResponses s) = s.latched [] .paramStarvation := by
  rw [commandBody, bodySetloc]
  rcases hq : s.cdc.paramFifo with _ | ⟨mm, _ | ⟨ss, _ | ⟨ff, rest⟩⟩⟩
  case nil => exact popParam_starved hq _
  case cons.nil =>
    rw [popParam_clearResponses hq]
    exact popParam_starved rfl _
  case cons.cons.nil =>
    rw [popParam_clearResponses hq, popParam_clearResponses rfl]
    exact popParam_starved rfl _
  case cons.cons.cons =>
    rw [hq] at h
    simp only [List.length_cons] at h
    omega

theorem setmode_starved (h : s.cdc.paramFifo = []) :
    commandBody .setmode (clearResponses s) = s.latched [] .paramStarvation := by
  rw [commandBody, bodySetmode, popParam_starved h]

theorem getTD_starved (h : s.cdc.paramFifo = []) :
    commandBody .getTD (clearResponses s) = s.latched [] .paramStarvation := by
  rw [commandBody, bodyGetTD, popParam_starved h]

theorem test_starved (h : s.cdc.paramFifo = []) :
    commandBody .test (clearResponses s) = s.latched [] .paramStarvation := by
  rw [commandBody, bodyTest, popParam_starved h]

theorem setmode_unsupported {p : Byte} {rest : List Byte} (hp : s.cdc.paramFifo = p :: rest)
    (hmode : p &&& s.cfg.modeUnsupportedMask ≠ 0#8) :
    commandBody .setmode (clearResponses s) = s.latched rest .unsupportedMode := by
  rw [commandBody, bodySetmode, popParam_clearResponses hp]
  exact if_pos (bne_iff_ne.mpr hmode)

/-- A command whose body raises a fatal ends where it is raised. -/
theorem exec_command_latched {n : CommandName} {params : List Byte} {k : FatalKind} (h : s.cdc.fatal = none)
    (hb : commandBody n (clearResponses s) = s.latched params k) :
    exec (commandInstr n) s = .next (s.latched params k) := by
  have hk : (commandBody n (clearResponses s)).cdc.fatal = some k := by
    rw [hb]
    rfl
  rw [exec_commandInstr, command_latches h hk, hb]

end

/-- Settles O29: each of the four commands ends at the pop that finds the queue empty. -/
theorem missingParameterIsFatal : Obligations.MissingParameterIsFatal := by
  rintro i s h (⟨rfl, hlen⟩ | ⟨rfl | rfl | rfl, hempty⟩)
  · exact exec_command_latched h (setloc_starved hlen)
  · exact exec_command_latched h (setmode_starved hempty)
  · exact exec_command_latched h (getTD_starved hempty)
  · exact exec_command_latched h (test_starved hempty)

/-- Settles O30: the parameter is popped, and the mode test ends the command. -/
theorem unsupportedModeIsFatal : Obligations.UnsupportedModeIsFatal :=
  fun _ _ _ h hp hmode => exec_command_latched h (setmode_unsupported hp hmode)

/-! Nothing else raises one. -/

theorem Answers.dispatch_clear {body : State → State} {s t : State} {codes : List IrqCode} {bytes : List Byte}
    (ha : Answers body s t codes bytes) : (dispatch body s).cdc.fatal = none := by
  have hclear : (body (clearResponses s)).cdc.fatal = none := by
    rw [ha.body_eq]
    exact ha.no_fatal
  rw [dispatch_of_clear hclear]
  exact hclear

section
variable (s : State)

theorem readResponse_fatal : (readResponse s).cdc.fatal = s.cdc.fatal := by
  cases hq : s.cdc.respFifo with
  | nil => rw [readResponse_nil hq]; rfl
  | cons b rest => rw [readResponse_cons hq]; rfl

theorem pushParam_fatal (b : Byte) : (pushParam b s).cdc.fatal = s.cdc.fatal := by
  rcases pushParam_cases s b with ⟨-, he⟩ | ⟨-, he⟩ <;> rw [he] <;> rfl

theorem request_fatal (b : Bool) : (request b s).cdc.fatal = s.cdc.fatal := by
  rcases request_cases s b with ⟨-, -, he⟩ | ⟨-, -, he⟩ | ⟨-, he⟩ <;> rw [he] <;> rfl

theorem dataWord_fatal (cfg : Config) (c : Cdc) : (dataWord cfg c).2.fatal = c.fatal := by
  simp [dataWord]

end

/-- An operation's update latches no fatal, unless it is a command that lacks what it needs. -/
theorem Meaning.keeps_clear {o : Opcodes} {i : Instr} {f : State → State} (hf : Meaning o i f) {s : State}
    (h : s.cdc.fatal = none) (hs : ∀ n, Issues o i n → Supplied s n) : (f s).cdc.fatal = none := by
  cases hf with
  | command n hi =>
    obtain ⟨t, codes, bytes, ha⟩ := exists_command_answers h n (hs n hi)
    exact ha.dispatch_clear
  | unknown op | unknownByte => exact (unknown_answers h _).dispatch_clear
  | rdStat | wrIndex | wrIrqen | rdIrqen | wrIrqack | rdIrqflag | ignoredWrite => exact h
  | rdResp => exact (readResponse_fatal s).trans h
  | wrParam v => exact (pushParam_fatal s v).trans h
  | rdData => exact (dataAdvance_fatal ..).trans h
  | wrReq => exact (request_fatal s _).trans h
  | tick => exact (ticked_fatal s).trans h
  | rdDataWord => exact (dataWord_fatal ..).trans h

/-- Only the four commands that take parameters need anything. -/
theorem eq_of_not_supplied {s : State} {n : CommandName} (h : ¬Supplied s n) :
    n = .setloc ∨ n = .setmode ∨ n = .getTD ∨ n = .test := by
  cases n with
  | setloc | setmode | getTD | test => decide
  | _ => exact absurd trivial h

/-- Settles O33: an update that latches a fatal is a command that lacks what it needs, so one of the four. -/
theorem onlyParameterCommandsLatchAFatal : Obligations.OnlyParameterCommandsLatchAFatal := by
  intro i s t ht h hlatched
  rcases exec_cases ht with ⟨-, rfl⟩ | ⟨f, hf, -, rfl⟩
  · exact absurd rfl hlatched
  obtain ⟨n, hi, hn⟩ : ∃ n, Issues s.cfg.encodings.opcodes i n ∧ ¬Supplied s n := by
    by_contra hall
    exact hlatched (hf.keeps_clear h fun n hi => by_contra fun hn => hall ⟨n, hi, hn⟩)
  have hfour := eq_of_not_supplied hn
  rcases hi.eq with rfl | rfl
  · rcases hfour with rfl | rfl | rfl | rfl <;> simp [commandInstr]
  · refine .inr (.inr (.inr (.inr ⟨_, rfl, ?_⟩)))
    rcases hfour with rfl | rfl | rfl | rfl <;> simp [Opcodes.of]

end Sys2Proof.Machine
